-- ==== Sys2Proof/Word.lean ====
section
/-! DEFINITION. The word types of the block and the three regions of its physical space. -/

namespace Sys2Proof

/-- A byte (`00_scope.md` R8): a page register, a data byte, a port number, a sequence code. -/
abbrev Byte := BitVec 8

/-- A 16-bit CPU address (`20_memory.md` R48). -/
abbrev Addr := BitVec 16

/-- A 19-bit physical offset into ROM, RAM or VIDEO space (`20_memory.md` R50). -/
abbrev Offset := BitVec 19

/-- A signed audio sample. The block carries samples and never computes with them, so a sample is an
integer; `Params.inRange` says that it fits `SAMPLE_BITS` bits (`10_state.md` R25). -/
abbrev Sample := Int

/-- The region class a CPU address maps to (`30_encoding.md` R78). -/
inductive Region where
  | ram
  | video
  | rom
deriving DecidableEq, Repr

end Sys2Proof
end

