-- ==== Sys2Proof/Config.lean ====
section
/-! DEFINITION. What an implementation fixes (the parameters of `00_scope.md` R7) and the free values, as one
constant without a body: nothing can be proved about it but what its types say, so a claim about the machine holds
for every value of every parameter. The constraints of R7 and R162 hold by construction: a parameter with a lower
bound is stored as its distance from that bound, a port nibble that must differ from another as its distance from that. -/

namespace Sys2Proof

/-- `TOGGLE_FLIP` (R7): what a masked read flips in the read mask. -/
def toggleFlip : Byte := 0x40

/-- `SECTOR_SIZE` (R7). -/
def sectorSize : Nat := 0x1000

/-- The number of offsets translation can reach, 32 banks of 16KB (`20_memory.md` R50). -/
def reachable : Nat := 0x80000

/-- The parameters of `00_scope.md` R7 and the values the spec leaves to a `draw` (R9). -/
structure Params where
  /-- `CLOCK_CYCLE_PS` less 1: the clock period is positive. -/
  clockExtra : Nat
  /-- `ROM_SIZE` less 0x80000. -/
  romExtra : Nat
  /-- `RAM_SIZE` less 0x80000. -/
  ramExtra : Nat
  /-- `ROM_IMAGE`: the ROM byte at each offset at reset. -/
  romImage : Nat → Byte
  /-- `PAGING_PORT_NIBBLE`. -/
  pagingPortNibble : BitVec 4
  /-- How far the keyboard reader's port nibble lies above the next one after `PAGING_PORT_NIBBLE`, going round: 0 to 14, so
  that it is any nibble but `PAGING_PORT_NIBBLE` (`30_encoding.md` R84, `60_exceptions.md` R162). -/
  keyboardNibbleGap : Fin 15
  /-- The same for the UART's port nibble (`30_encoding.md` R84, `60_exceptions.md` R162). -/
  uartNibbleGap : Fin 15
  /-- `CMD_ADDR_MASK`: the offset bits the flash command recognizer compares. -/
  cmdAddrMask : Offset
  /-- `T_BYTE_PROGRAM_PS`. -/
  tByteProgramPs : Nat
  /-- `T_SECTOR_ERASE_PS`. -/
  tSectorErasePs : Nat
  /-- `T_CHIP_ERASE_PS`. -/
  tChipErasePs : Nat
  /-- `TOGGLE_MASK_RESET`. -/
  toggleMaskReset : Byte
  /-- `VIDEO_PRESENT`. -/
  videoPresent : Bool
  /-- `VIDEO_ABSENT_READ_VALUE`. -/
  videoAbsentReadValue : Byte
  /-- `SAMPLE_PERIOD_PS` less `CLOCK_CYCLE_PS`. -/
  samplePeriodExtra : Nat
  /-- `AUDIO_CAP` less 1. -/
  audioCapExtra : Nat
  /-- `AUDIO_MCR_BIT`, 0 to 7. -/
  audioMcrBit : BitVec 3
  /-- `SAMPLE_BITS` less 2. -/
  sampleBitsExtra : Nat
  /-- `AUDIO_LEVEL` before it is cut to `SAMPLE_BITS` bits (`42_audio.md` R143). -/
  audioLevelRaw : Bool → Nat → Int
  /-- `VOLUME_RESET`, in the model's coding of the volume type by naturals. DESIGN CHOICE: log 8. -/
  volumeReset : Nat
  /-- `LAST_SAMPLE_RESET` before it is cut to `SAMPLE_BITS` bits. -/
  lastSampleRaw : Int
  /-- Free value: the page registers after reset (`10_state.md` R33). DESIGN CHOICE: log 3. -/
  pageReset : BitVec 2 → Byte
  /-- Free value: each RAM byte after reset (`10_state.md` R33). DESIGN CHOICE: log 3. -/
  ramReset : Nat → Byte
  /-- Free value: `deadline` after reset (`10_state.md` R33). DESIGN CHOICE: log 3. -/
  deadlineReset : Nat
  /-- Free value: the ring buffer's slots after reset (`10_state.md` R33), before the cut. DESIGN CHOICE: log 3. -/
  bufReset : Nat → Int
  /-- Free value: the UART's modem-control byte before the UART first reports it. DESIGN CHOICE: log 7. -/
  mcrReset : Byte
  /-- Free value: the n-th `draw byte` (`00_scope.md` R9; R103, R107, R175). DESIGN CHOICE: log 6. -/
  freeByte : Nat → Byte
deriving Inhabited

/-- `CLOCK_CYCLE_PS` > 0. -/
def Params.clockCyclePs (P : Params) : Nat := P.clockExtra + 1

/-- The port nibble of the keyboard reader, never `PAGING_PORT_NIBBLE` (`30_encoding.md` R84). -/
def Params.keyboardNibble (P : Params) : BitVec 4 := P.pagingPortNibble + 1 + BitVec.ofNat 4 P.keyboardNibbleGap.val

/-- The port nibble of the UART's registers, never `PAGING_PORT_NIBBLE` (`30_encoding.md` R84). -/
def Params.uartNibble (P : Params) : BitVec 4 := P.pagingPortNibble + 1 + BitVec.ofNat 4 P.uartNibbleGap.val

/-- `ROM_SIZE` ≥ 0x80000. -/
def Params.romSize (P : Params) : Nat := reachable + P.romExtra

/-- `RAM_SIZE` ≥ 0x80000. -/
def Params.ramSize (P : Params) : Nat := reachable + P.ramExtra

/-- `SAMPLE_PERIOD_PS` ≥ `CLOCK_CYCLE_PS`. -/
def Params.samplePeriodPs (P : Params) : Nat := P.clockCyclePs + P.samplePeriodExtra

/-- `AUDIO_CAP` ≥ 1. -/
def Params.audioCap (P : Params) : Nat := P.audioCapExtra + 1

/-- `SAMPLE_BITS` ≥ 2. -/
def Params.sampleBits (P : Params) : Nat := P.sampleBitsExtra + 2

/-- The integer a `SAMPLE_BITS`-bit two's-complement word holds after `x` is cut to that width. DESIGN CHOICE: log 9. -/
def Params.toSample (P : Params) (x : Int) : Sample := (BitVec.ofInt P.sampleBits x).toInt

/-- A sample fits `SAMPLE_BITS` signed bits (`10_state.md` R25). -/
abbrev Params.inRange (P : Params) (x : Sample) : Prop :=
  -(2 ^ (P.sampleBits - 1) : Int) ≤ x ∧ x < (2 ^ (P.sampleBits - 1) : Int)

/-- `AUDIO_LEVEL(sig, volume)` (`42_audio.md` R143). -/
def Params.level (P : Params) (sig : Bool) (volume : Nat) : Sample := P.toSample (P.audioLevelRaw sig volume)

/-- `LAST_SAMPLE_RESET`. -/
def Params.lastSampleReset (P : Params) : Sample := P.toSample P.lastSampleRaw

/-- The parameters of the machine at hand: no body, so no proof can see what they are. -/
opaque Config.params : Params

end Sys2Proof
end

