-- ==== Sys2Proof/Syntax.lean ====
section
/-! DEFINITION. The operations of the block (`30_encoding.md` R76), one constructor per row of
spec/opcode_table.json; FLASH_RESET has two rows and so two constructors. -/

namespace Sys2Proof

/-- An operation of the block with its operands. -/
inductive Instr where
  -- format FW, in the order of `30_encoding.md` R87
  /-- FLASH_UNLOCK1 (R114): the write of 0xAA at `off` in state 0. -/
  | flashUnlock1 (off : Offset)
  /-- FLASH_UNLOCK2 (R115): the write of 0x55 at `off` in state 1. -/
  | flashUnlock2 (off : Offset)
  /-- FLASH_RESET, row 3 (R122): a command byte with a zero high nibble, `lo` its low nibble. -/
  | flashResetCommand (off : Offset) (lo : BitVec 4)
  /-- FLASH_CMD (R116): the command byte `d` at `off` in state 2. -/
  | flashCmd (off : Offset) (d : Byte)
  /-- FLASH_PROGRAM (R117): the data write of a byte-program. -/
  | flashProgram (off : Offset) (d : Byte)
  /-- FLASH_ERASE_UNLOCK1 (R118): the write of 0xAA at `off` in state 0x80. -/
  | flashEraseUnlock1 (off : Offset)
  /-- FLASH_ERASE_UNLOCK2 (R119): the write of 0x55 at `off` in state 0x81. -/
  | flashEraseUnlock2 (off : Offset)
  /-- FLASH_CHIP_ERASE (R120): the write of 0x10 at `off` in state 0x82. -/
  | flashChipErase (off : Offset)
  /-- FLASH_SECTOR_ERASE (R121): the write of 0x30 at `off` in state 0x82. -/
  | flashSectorErase (off : Offset)
  /-- FLASH_BUSY_IGNORE (R123): the write of `d` at `off` in state 3. -/
  | flashBusyIgnore (off : Offset) (d : Byte)
  /-- FLASH_RESET, row 11 (R122): every other write of `d` at `off` in state `code`. -/
  | flashReset (code : Byte) (off : Offset) (d : Byte)
  -- format PRB, in the order of the table; `lo` is the address within the quadrant (R77)
  /-- TRANSLATE.RAM (R78, R101): class 001. -/
  | translateRam (bank : BitVec 5) (lo : BitVec 14)
  /-- TRANSLATE.VIDEO (R78, R101): class 010. -/
  | translateVideo (bank : BitVec 5) (lo : BitVec 14)
  /-- TRANSLATE.ROM (R78, R101): every other class. -/
  | translateRom (cls : BitVec 3) (bank : BitVec 5) (lo : BitVec 14)
  -- format EV
  /-- MEM_READ (R103), `RD a`. -/
  | memRead (a : Addr)
  /-- MEM_WRITE (R104), `WR a,d`. -/
  | memWrite (a : Addr) (d : Byte)
  /-- IDLE_TICK (R109), `TICK n`. -/
  | idleTick (n : Nat)
  /-- AUDIO_CALLBACK (R148), `CB n`. -/
  | audioCallback (n : Nat)
  -- format IOP: the paging nibble is the row's own, `x` is port bit 3
  /-- OUT_PAGE_SELECT (R105): port `NNNNx0rr`. -/
  | outPageSelect (x : BitVec 1) (r : BitVec 2) (d : Byte)
  /-- OUT_PAGING_ENABLE (R106): port `NNNNx1yy`. -/
  | outPagingEnable (x : BitVec 1) (y : BitVec 2) (d : Byte)
  /-- IN_PAGING (R107): a read of port `NNNNllll`. -/
  | inPaging (low : BitVec 4)
  /-- IO_OTHER (R108): a write (`wr`) of `d` to, or a read of, a port with another high nibble. -/
  | ioOther (wr : Bool) (port : Byte) (d : Byte)
  -- no word to decode (R95)
  /-- TRANSLATE (R101). -/
  | translate (a : Addr)
  /-- FLASH_READ (R111). -/
  | flashRead (o : Offset)
  /-- FLASH_WRITE (R112). -/
  | flashWrite (o : Offset) (d : Byte)
  /-- FLASH_COMPLETE (R113). -/
  | flashComplete
  /-- AUDIO_SAMPLE (R142). -/
  | audioSample
  /-- AUDIO_PUSH (R144). -/
  | audioPush (x : Sample)
  /-- AUDIO_POP (R146). -/
  | audioPop
  /-- AUDIO_SET_VOLUME (R153). -/
  | audioSetVolume (v : Nat)
  /-- HOST_SET_PAGE (R173). -/
  | hostSetPage (i : BitVec 2) (v : Byte)
  /-- HOST_SET_PE (R173). -/
  | hostSetPe (b : Bool)
  /-- HOST_MEM_WRITE (R174): page byte `p`, address `a`, data `d`. -/
  | hostMemWrite (p : Byte) (a : Addr) (d : Byte)
  /-- HOST_MEM_READ (R175): page byte `p`, address `a`. -/
  | hostMemRead (p : Byte) (a : Addr)
  /-- HOST_CAPTURE (R179). -/
  | hostCapture (b : Bool)
deriving DecidableEq, Repr

end Sys2Proof
end

