-- ==== Sys2Proof/WellFormed.lean ====
section
/-! DEFINITION. Which operand values an operation can carry: those its row of the operation table selects
(`30_encoding.md` R76 to R95). `nib` is `PAGING_PORT_NIBBLE` and `mask` is `CMD_ADDR_MASK`. -/

namespace Sys2Proof

/-- `o ~ A` of `41_flash.md`: the offset equals the command address `A` in the bits that are compared. -/
def matchesCommand (mask o target : Offset) : Bool := (o &&& mask) == (target &&& mask)

/-- `A5` before masking: the first command address (R112). -/
def addrA5 : Offset := 0x05555

/-- `A2` before masking: the second command address (R112). -/
def addrA2 : Offset := 0x02AAA

/-- A write of `d` at `o` in state `code` that rows 1 to 10 of `30_encoding.md` R87 do not take. -/
def fallsToReset (mask : Offset) (code : Byte) (o : Offset) (d : Byte) : Bool :=
  !(code == 0x00 && matchesCommand mask o addrA5 && d == 0xAA) &&
  !(code == 0x01 && matchesCommand mask o addrA2 && d == 0x55) &&
  !(code == 0x02 && matchesCommand mask o addrA5) &&
  !(code == 0xA0) &&
  !(code == 0x80 && matchesCommand mask o addrA5 && d == 0xAA) &&
  !(code == 0x81 && matchesCommand mask o addrA2 && d == 0x55) &&
  !(code == 0x82 && matchesCommand mask o addrA5 && d == 0x10) &&
  !(code == 0x82 && d == 0x30) &&
  !(code == 0x03)

/-- The operands are ones the operation's row selects, for a given nibble and mask. -/
def Instr.wfWith (nib : BitVec 4) (mask : Offset) : Instr → Bool
  | .flashUnlock1 o => matchesCommand mask o addrA5
  | .flashUnlock2 o => matchesCommand mask o addrA2
  | .flashResetCommand o _ => matchesCommand mask o addrA5
  | .flashCmd o d => matchesCommand mask o addrA5 && d.extractLsb' 4 4 != 0
  | .flashProgram _ _ => true
  | .flashEraseUnlock1 o => matchesCommand mask o addrA5
  | .flashEraseUnlock2 o => matchesCommand mask o addrA2
  | .flashChipErase o => matchesCommand mask o addrA5
  | .flashSectorErase _ => true
  | .flashBusyIgnore _ _ => true
  | .flashReset code o d => fallsToReset mask code o d
  | .translateRam _ _ => true
  | .translateVideo _ _ => true
  | .translateRom cls _ _ => cls != 1 && cls != 2
  | .memRead _ => true
  | .memWrite _ _ => true
  | .idleTick n => n < 65536
  | .audioCallback n => n < 65536
  | .outPageSelect _ _ _ => true
  | .outPagingEnable _ _ _ => true
  | .inPaging _ => true
  | .ioOther wr port d => port.extractLsb' 4 4 != nib && (wr || d == 0)
  | .translate _ => true
  | .flashRead _ => true
  | .flashWrite _ _ => true
  | .flashComplete => true
  | .audioSample => true
  | .audioPush _ => true
  | .audioPop => true
  | .audioSetVolume _ => true
  | .hostSetPage _ _ => true
  | .hostSetPe _ => true
  | .hostMemWrite _ _ _ => true
  | .hostMemRead _ _ => true
  | .hostCapture _ => true

/-- The operands are ones the operation's row selects, on the machine at hand. -/
def Instr.wf (i : Instr) : Bool := i.wfWith Config.params.pagingPortNibble Config.params.cmdAddrMask

end Sys2Proof
end

