-- ==== Sys2Proof/Decode.lean ====
section
/-! DEFINITION. The coded forms of operations (`30_encoding.md` R77 to R93), the decoder, total on all of them, and the
encoder. `nib` is `PAGING_PORT_NIBBLE` and `mask` is `CMD_ADDR_MASK`; the last section fixes both at the machine at
hand. -/

namespace Sys2Proof

/-- The request record of one tick (`20_memory.md` R46). -/
structure BusRequest where
  mreq : Bool
  iorq : Bool
  wr : Bool
  addr : Addr
  data : Byte
deriving DecidableEq, Repr

/-- What the environment can do next (`70_reset_and_hazards.md` R206), in the form it hands it over. -/
inductive Input where
  /-- An event word, format EV (R93). -/
  | event (w : BitVec 32)
  /-- One tick with this request record (R46); both request lines may be up (R47). -/
  | request (r : BusRequest)
  /-- One tick with an I/O request to a paging port, its number given as the table's pattern letters give it: the
  nibble is the paging nibble, `low` is port bits 3:0. DESIGN CHOICE: log 13. -/
  | pagingPort (wr : Bool) (low : BitVec 4) (d : Byte)
  /-- A flash write word, format FW (R86), at the sequencer. DESIGN CHOICE: log 11. -/
  | flashWord (w : BitVec 35)
  /-- A page-register byte, format PRB, with the low 14 address bits (R77). DESIGN CHOICE: log 11. -/
  | pageByte (p : Byte) (lo : BitVec 14)
  /-- The consumer asks for `n` samples (R148). -/
  | callback (n : Nat)
  /-- The consumer takes one sample (R150). -/
  | pop
  /-- The UART's modem-control byte changes to `b` (R141). DESIGN CHOICE: log 7. -/
  | uartMcr (b : Byte)
  /-- The host sets the volume (R153). -/
  | setVolume (v : Nat)
  /-- The host sets a page register (R173). -/
  | setPage (i : BitVec 2) (v : Byte)
  /-- The host sets the paging-enable flag (R173). -/
  | setPe (b : Bool)
  /-- The host writes a memory cell (R174). -/
  | hostWrite (p : Byte) (a : Addr) (d : Byte)
  /-- The host reads a memory cell (R175). -/
  | hostRead (p : Byte) (a : Addr)
  /-- The host switches the capture sink (R179). -/
  | setCapture (b : Bool)
deriving DecidableEq, Repr

/-- What one input makes the machine do. -/
inductive Move where
  /-- A tick that services these requests in this order. -/
  | bus (ops : List Instr)
  /-- One operation that is not the service of a bus request. -/
  | act (i : Instr)
  /-- One flash operation, selected while the sequencer's code is `code`. -/
  | flash (code : Byte) (i : Instr)
  /-- The UART's modem-control byte changes. -/
  | uart (b : Byte)
deriving DecidableEq, Repr

/-! ### Bit fields -/

/-- The quadrant of a CPU address, `a[15:14]` (R77). -/
def quadrantOf (a : Addr) : BitVec 2 := a.extractLsb' 14 2

/-- The address within the quadrant, `a[13:0]` (R77). -/
def lowOf (a : Addr) : BitVec 14 := a.extractLsb' 0 14

/-- The region class of a page byte, `p[7:5]` (R77). -/
def classOf (p : Byte) : BitVec 3 := p.extractLsb' 5 3

/-- The bank of a page byte, `p[4:0]` (R77). -/
def bankOf (p : Byte) : BitVec 5 := p.extractLsb' 0 5

/-- The page byte with this class and bank (R77). -/
def pageByteOf (cls : BitVec 3) (bank : BitVec 5) : Byte := cls ++ bank

/-- The port number `{nib, low}` (R81). -/
def portOf (nib low : BitVec 4) : Byte := nib ++ low

/-! ### Format FW: the flash command map (R86, R87) -/

/-- `FW = {seq, off, data}` (R86). -/
def flashWordOf (code : Byte) (off : Offset) (d : Byte) : BitVec 35 := code ++ off ++ d

/-- `FW[34:27]`. -/
def fwCode (w : BitVec 35) : Byte := w.extractLsb' 27 8

/-- `FW[26:8]`. -/
def fwOff (w : BitVec 35) : Offset := w.extractLsb' 8 19

/-- `FW[7:0]`. -/
def fwData (w : BitVec 35) : Byte := w.extractLsb' 0 8

/-- `o ~ A` (R86): the offset equals the command address `A` in the bits that are compared. Equal offsets agree whatever is
compared, so they need no look at `mask`. -/
def offsetMatches (mask o target : Offset) : Bool := o == target || (o &&& mask) == (target &&& mask)

/-- A row of the command map: the writes it takes are those in state `code` whose data byte is `data` in the bits of
`dataMask`, at a command address if it names one and else at any offset. -/
structure FwRow where
  code : Byte
  target : Option Offset
  data : Byte
  dataMask : Byte
  op : Offset → Byte → Instr

/-- The command map of R87, rows 1 to 10 in its order. -/
def fwRows : List FwRow :=
  [ ⟨0x00, some 0x05555, 0xAA, 0xFF, fun o _ => .flashUnlock1 o⟩,
    ⟨0x01, some 0x02AAA, 0x55, 0xFF, fun o _ => .flashUnlock2 o⟩,
    ⟨0x02, some 0x05555, 0x00, 0xF0, fun o d => .flashResetCommand o (d.extractLsb' 0 4)⟩,
    ⟨0x02, some 0x05555, 0x00, 0x00, fun o d => .flashCmd o d⟩,
    ⟨0xA0, none, 0x00, 0x00, fun o d => .flashProgram o d⟩,
    ⟨0x80, some 0x05555, 0xAA, 0xFF, fun o _ => .flashEraseUnlock1 o⟩,
    ⟨0x81, some 0x02AAA, 0x55, 0xFF, fun o _ => .flashEraseUnlock2 o⟩,
    ⟨0x82, some 0x05555, 0x10, 0xFF, fun o _ => .flashChipErase o⟩,
    ⟨0x82, none, 0x30, 0xFF, fun o _ => .flashSectorErase o⟩,
    ⟨0x03, none, 0x00, 0x00, fun o d => .flashBusyIgnore o d⟩ ]

/-- A row takes a write of `d` at `o` in state `code`. -/
def rowTakes (mask : Offset) (r : FwRow) (code : Byte) (o : Offset) (d : Byte) : Bool :=
  code == r.code && (d &&& r.dataMask) == r.data &&
    match r.target with
    | some target => offsetMatches mask o target
    | none => true

/-- The operation of the first row that takes the write, and row 11, which takes every write (R87). -/
def firstRow (mask : Offset) (code : Byte) (o : Offset) (d : Byte) : List FwRow → Instr
  | [] => .flashReset code o d
  | r :: rs => if rowTakes mask r code o d then r.op o d else firstRow mask code o d rs

/-- The operation of a flash write word (R86, R87). -/
def decodeFlashWith (mask : Offset) (w : BitVec 35) : Instr := firstRow mask (fwCode w) (fwOff w) (fwData w) fwRows

/-! ### Format PRB: the class of a page byte (R78, R95) -/

/-- The TRANSLATE row that takes a page byte, first match wins. -/
def decodePage (p : Byte) (lo : BitVec 14) : Instr :=
  if p &&& 0xE0 = 0x20 then .translateRam (bankOf p) lo
  else if p &&& 0xE0 = 0x40 then .translateVideo (bankOf p) lo
  else .translateRom (classOf p) (bankOf p) lo

/-! ### Format IOP: the port byte (R81 to R84) -/

/-- The operation of an I/O request to a paging port, by the port's low nibble. -/
def decodePagingPort (wr : Bool) (low : BitVec 4) (d : Byte) : Instr :=
  if wr then
    if low.extractLsb' 2 1 = 0 then .outPageSelect (low.extractLsb' 3 1) (low.extractLsb' 0 2) d
    else .outPagingEnable (low.extractLsb' 3 1) (low.extractLsb' 0 2) d
  else .inPaging low

/-- The operation of an I/O request, by its port (R82 to R84). -/
def decodePort (nib : BitVec 4) (wr : Bool) (port d : Byte) : Instr :=
  if port.extractLsb' 4 4 = nib then decodePagingPort wr (port.extractLsb' 0 4) d else .ioOther wr port d

/-! ### Format EV: event words (R93) -/

/-- The event word `{kind, 0000, a, d}` (R93). -/
def eventWord (kind : BitVec 4) (a : BitVec 16) (d : Byte) : BitVec 32 := kind ++ (0 : BitVec 4) ++ a ++ d

/-- What an event word makes the machine do; none where R93 gives the word no meaning. -/
def decodeEventWith (nib : BitVec 4) (w : BitVec 32) : Option Move :=
  let kind : BitVec 4 := w.extractLsb' 28 4
  let a : BitVec 16 := w.extractLsb' 8 16
  let d : Byte := w.extractLsb' 0 8
  let port : Byte := w.extractLsb' 8 8
  if w.extractLsb' 24 4 ≠ 0 then none
  else if kind = 0 then if d = 0 then some (.act (.idleTick a.toNat)) else none
  else if kind = 1 then if d = 0 then some (.bus [.memRead a]) else none
  else if kind = 2 then some (.bus [.memWrite a d])
  else if kind = 3 then
    if w.extractLsb' 16 8 = 0 ∧ d = 0 then some (.bus [decodePort nib false port 0]) else none
  else if kind = 4 then if w.extractLsb' 16 8 = 0 then some (.bus [decodePort nib true port d]) else none
  else if kind = 5 then if d = 0 then some (.act (.audioCallback a.toNat)) else none
  else none

/-! ### The request record (`20_memory.md` R46, R47) -/

/-- What a tick with this request record services: memory first, then I/O; a tick with neither is an idle tick. -/
def decodeRequest (nib : BitVec 4) (r : BusRequest) : Move :=
  let mem : Instr := if r.wr then .memWrite r.addr r.data else .memRead r.addr
  let io : Instr := decodePort nib r.wr (r.addr.extractLsb' 0 8) (if r.wr then r.data else 0)
  match r.mreq, r.iorq with
  | true, true => .bus [mem, io]
  | true, false => .bus [mem]
  | false, true => .bus [io]
  | false, false => .act (.idleTick 1)

/-! ### All coded forms -/

/-- What an input makes the machine do; none for an event word without a meaning. -/
def decodeWith (nib : BitVec 4) (mask : Offset) : Input → Option Move
  | .event w => decodeEventWith nib w
  | .request r => some (decodeRequest nib r)
  | .pagingPort wr low d => some (.bus [decodePagingPort wr low d])
  | .flashWord w => some (.flash (fwCode w) (decodeFlashWith mask w))
  | .pageByte p lo => some (.act (decodePage p lo))
  | .callback n => some (.act (.audioCallback n))
  | .pop => some (.act .audioPop)
  | .uartMcr b => some (.uart b)
  | .setVolume v => some (.act (.audioSetVolume v))
  | .setPage i v => some (.act (.hostSetPage i v))
  | .setPe b => some (.act (.hostSetPe b))
  | .hostWrite p a d => some (.act (.hostMemWrite p a d))
  | .hostRead p a => some (.act (.hostMemRead p a))
  | .setCapture b => some (.act (.hostCapture b))

/-- The coded form of an operation: the word its row of the table gives it; none for the operations selected by state or by
time (R95). R95 gives the operations selected by the host no word either, nor AUDIO_POP: their coded forms are inputs of
the model. DESIGN CHOICE: log 27. -/
def encodeWith (nib : BitVec 4) : Instr → Option Input
  | .flashUnlock1 o => some (.flashWord (flashWordOf 0x00 o 0xAA))
  | .flashUnlock2 o => some (.flashWord (flashWordOf 0x01 o 0x55))
  | .flashResetCommand o lo => some (.flashWord (flashWordOf 0x02 o ((0 : BitVec 4) ++ lo)))
  | .flashCmd o d => some (.flashWord (flashWordOf 0x02 o d))
  | .flashProgram o d => some (.flashWord (flashWordOf 0xA0 o d))
  | .flashEraseUnlock1 o => some (.flashWord (flashWordOf 0x80 o 0xAA))
  | .flashEraseUnlock2 o => some (.flashWord (flashWordOf 0x81 o 0x55))
  | .flashChipErase o => some (.flashWord (flashWordOf 0x82 o 0x10))
  | .flashSectorErase o => some (.flashWord (flashWordOf 0x82 o 0x30))
  | .flashBusyIgnore o d => some (.flashWord (flashWordOf 0x03 o d))
  | .flashReset code o d => some (.flashWord (flashWordOf code o d))
  | .translateRam bank lo => some (.pageByte (pageByteOf 1 bank) lo)
  | .translateVideo bank lo => some (.pageByte (pageByteOf 2 bank) lo)
  | .translateRom cls bank lo => some (.pageByte (pageByteOf cls bank) lo)
  | .memRead a => some (.event (eventWord 1 a 0))
  | .memWrite a d => some (.event (eventWord 2 a d))
  | .idleTick n => some (.event (eventWord 0 (BitVec.ofNat 16 n) 0))
  | .audioCallback n => some (.event (eventWord 5 (BitVec.ofNat 16 n) 0))
  | .outPageSelect x r d => some (.event (eventWord 4 ((0 : Byte) ++ portOf nib (x ++ (0 : BitVec 1) ++ r)) d))
  | .outPagingEnable x y d => some (.event (eventWord 4 ((0 : Byte) ++ portOf nib (x ++ (1 : BitVec 1) ++ y)) d))
  | .inPaging low => some (.event (eventWord 3 ((0 : Byte) ++ portOf nib low) 0))
  | .ioOther wr port d => some (.event (eventWord (if wr then 4 else 3) ((0 : Byte) ++ port) d))
  | .translate _ => none
  | .flashRead _ => none
  | .flashWrite _ _ => none
  | .flashComplete => none
  | .audioSample => none
  | .audioPush _ => none
  | .audioPop => some .pop
  | .audioSetVolume v => some (.setVolume v)
  | .hostSetPage i v => some (.setPage i v)
  | .hostSetPe b => some (.setPe b)
  | .hostMemWrite p a d => some (.hostWrite p a d)
  | .hostMemRead p a => some (.hostRead p a)
  | .hostCapture b => some (.setCapture b)

/-- The move that asks for one operation: the service of a bus request takes its place in a tick (`60_exceptions.md` R165,
steps 6 and 7), an FW row needs the state code it is selected in (R87). -/
def moveOf : Instr → Move
  | .flashUnlock1 o => .flash 0x00 (.flashUnlock1 o)
  | .flashUnlock2 o => .flash 0x01 (.flashUnlock2 o)
  | .flashResetCommand o lo => .flash 0x02 (.flashResetCommand o lo)
  | .flashCmd o d => .flash 0x02 (.flashCmd o d)
  | .flashProgram o d => .flash 0xA0 (.flashProgram o d)
  | .flashEraseUnlock1 o => .flash 0x80 (.flashEraseUnlock1 o)
  | .flashEraseUnlock2 o => .flash 0x81 (.flashEraseUnlock2 o)
  | .flashChipErase o => .flash 0x82 (.flashChipErase o)
  | .flashSectorErase o => .flash 0x82 (.flashSectorErase o)
  | .flashBusyIgnore o d => .flash 0x03 (.flashBusyIgnore o d)
  | .flashReset code o d => .flash code (.flashReset code o d)
  | .translateRam bank lo => .act (.translateRam bank lo)
  | .translateVideo bank lo => .act (.translateVideo bank lo)
  | .translateRom cls bank lo => .act (.translateRom cls bank lo)
  | .memRead a => .bus [.memRead a]
  | .memWrite a d => .bus [.memWrite a d]
  | .idleTick n => .act (.idleTick n)
  | .audioCallback n => .act (.audioCallback n)
  | .outPageSelect x r d => .bus [.outPageSelect x r d]
  | .outPagingEnable x y d => .bus [.outPagingEnable x y d]
  | .inPaging low => .bus [.inPaging low]
  | .ioOther wr port d => .bus [.ioOther wr port d]
  | .translate a => .act (.translate a)
  | .flashRead o => .act (.flashRead o)
  | .flashWrite o d => .act (.flashWrite o d)
  | .flashComplete => .act .flashComplete
  | .audioSample => .act .audioSample
  | .audioPush x => .act (.audioPush x)
  | .audioPop => .act .audioPop
  | .audioSetVolume v => .act (.audioSetVolume v)
  | .hostSetPage i v => .act (.hostSetPage i v)
  | .hostSetPe b => .act (.hostSetPe b)
  | .hostMemWrite p a d => .act (.hostMemWrite p a d)
  | .hostMemRead p a => .act (.hostMemRead p a)
  | .hostCapture b => .act (.hostCapture b)

/-! ### The machine at hand -/

/-- The flash operation of a write word. -/
def decodeFlash (w : BitVec 35) : Instr := decodeFlashWith Config.params.cmdAddrMask w

/-- What an input makes the machine do. -/
def decode (i : Input) : Option Move := decodeWith Config.params.pagingPortNibble Config.params.cmdAddrMask i

/-- The coded form of an operation. -/
def encode (i : Instr) : Option Input := encodeWith Config.params.pagingPortNibble i

/-! ### The opcode table's rows -/

/-- The operation of a move that asks for exactly one. -/
def Move.single : Move → Option Instr
  | .bus [i] => some i
  | .bus _ => none
  | .act i => some i
  | .flash _ i => some i
  | .uart _ => none

/-- The coded form of a table row's word. 32 bits is format EV; 35 bits, 40 in whole bytes, is format FW. Eight bits are
PRB for the classes 001 and 010, and otherwise IOP, read as an I/O write of 0 whose high nibble is the table's letter `N`.
DESIGN CHOICE: log 12. -/
def tableInput (nbits w : Nat) : Option Input :=
  if nbits = 32 then some (.event (BitVec.ofNat 32 w))
  else if nbits = 35 ∨ nbits = 40 then some (.flashWord (BitVec.ofNat 35 w))
  else if nbits = 8 then
    let b := BitVec.ofNat 8 w
    if classOf b = 1 ∨ classOf b = 2 then some (.pageByte b 0) else some (.pagingPort true (b.extractLsb' 0 4) 0)
  else none

/-- The operation the decoder reads from a table row's word, with the table's own `CMD_ADDR_MASK`, 0x7FFFF (R95). -/
def decodeTableWord (nbits w : Nat) : Option Instr :=
  match tableInput nbits w with
  | none => none
  | some i =>
    match decodeWith Config.params.pagingPortNibble 0x7FFFF i with
    | none => none
    | some m => m.single

end Sys2Proof
end

