-- ==== Sys2Proof/Machine/State.lean ====
section
/-! DEFINITION. The state of the block as plain data (`10_state.md`), the reasons a step can stop, and the state after
reset. -/

namespace Sys2Proof.Machine

/-- The bytes of an array that differ from what an unlisted byte reads as, at rising offsets (log 10). -/
abbrev Memory := List Host.Cell

/-- What an operation hands to the outside: the MODEL's record of it, not state of the block (log 5). -/
inductive Answer where
  /-- A byte put on the data bus, or given to the host's snapshot (`20_memory.md` R46; R175). -/
  | byte (b : Byte)
  /-- The result of TRANSLATE (R101). -/
  | translated (region : Region) (off : Offset)
  /-- The samples delivered to the consumer (R146, R148). -/
  | samples (xs : List Sample)
  /-- A read handed to the video peripheral with the time (R103). -/
  | videoRead (a : Addr) (off : Offset) (time : Nat)
  /-- A write handed to the video peripheral with the time (R104, R174). -/
  | videoWrite (a : Addr) (off : Offset) (d : Byte) (time : Nat)
deriving DecidableEq, Repr

/-- The block raises no exception and nothing faults (`60_exceptions.md` R160): there is no fault. -/
inductive Fault
deriving DecidableEq, Repr

/-- Why a step has no meaning. -/
inductive Refusal where
  /-- Raised by `exec` for an operation without a meaning, by its mnemonic; no arm raises it. Safe. -/
  | notModelled (mnemonic : String)
  /-- Raised by `step` for an event word R93 gives no meaning: kind 6 to 15, or a bit set that must be zero. Safe (log 21). -/
  | unusedEventWord (i : Input)
  /-- Raised by `step` for a flash write word whose state code is not the sequencer's: R86 forms no such word. Safe (log 11). -/
  | flashWordNotFormed (code : Byte)
deriving DecidableEq, Repr

/-- The state of the block, and the interface values that are the model's own (INVENTORY.md, '## State'). -/
structure State where
  /-- Simulated time in picoseconds (R13). -/
  now : Nat
  /-- The page registers (R14). -/
  pr : Vector Byte 4
  /-- `PE`, the paging-enable flag (R16). -/
  pe : Bool
  /-- `ROM`: its bytes that differ from what an unlisted ROM byte reads as (R18; log 10). -/
  rom : Memory
  /-- A chip erase has happened: an unlisted ROM byte reads 0xFF instead of `ROM_IMAGE` (R120; log 10). -/
  romErased : Bool
  /-- `RAM`: its bytes that differ from what an unlisted RAM byte reads as (R18; log 10). -/
  ram : Memory
  /-- The sequence code (R20). -/
  seq : Byte
  /-- A flash operation is in progress (R21). -/
  active : Bool
  /-- When it completes (R22). -/
  deadline : Nat
  /-- The read mask (R23). -/
  tmask : Byte
  /-- The ring buffer's slots (R25). -/
  buf : List Sample
  /-- The read cursor (R26). -/
  rd : Nat
  /-- The write cursor (R26). -/
  wr : Nat
  /-- The available-count (R27). -/
  avail : Nat
  /-- The last sample delivered (R29). -/
  last : Sample
  /-- When the next sample is due (R29). -/
  nextSample : Nat
  /-- The volume (R29), coded by a natural (log 8). -/
  volume : Nat
  /-- A capture sink is attached (R29). -/
  captureOn : Bool
  /-- The capture sink's contents (R29). -/
  capture : List Sample
  /-- Input: the UART's modem-control byte (R141; log 7). The model's own. -/
  mcr : Byte
  /-- What the environment does next, oldest first (R206; log 1). The model's own. -/
  inputs : List Input
  /-- What the last step answered, in order (log 5). The model's own. -/
  out : List Answer
  /-- How many free bytes have been drawn (log 6). The model's own. -/
  draws : Nat
deriving DecidableEq, Repr

/-- The state after reset for given parameters (`10_state.md` R33, `70_reset_and_hazards.md` R190, R191). -/
def State.resetWith (P : Params) : State where
  now := 0
  pr := #v[P.pageReset 0, P.pageReset 1, P.pageReset 2, P.pageReset 3]
  pe := false
  rom := []
  romErased := false
  ram := []
  seq := 0x00
  active := false
  deadline := P.deadlineReset
  tmask := P.toggleMaskReset
  buf := (List.range P.audioCap).map (fun i => P.toSample (P.bufReset i))
  rd := 0
  wr := 0
  avail := 0
  last := P.lastSampleReset
  nextSample := P.samplePeriodPs
  volume := P.volumeReset
  captureOn := false
  capture := []
  mcr := P.mcrReset
  inputs := []
  out := []
  draws := 0

/-- The machine right after reset. -/
def State.reset : State := State.resetWith Config.params

end Sys2Proof.Machine
end

