-- ==== Sys2Proof/Machine/Flags.lean ====
section
/-! DEFINITION. The block's three flags, `PE`, `active` and `capture_on`, and everything that writes them
(`10_state.md` R32). The block has no condition codes. -/

namespace Sys2Proof.Machine

/-- `PE <- b` (`40_paging.md` R106, `60_exceptions.md` R173). -/
def State.setPe (s : State) (b : Bool) : State := { s with pe := b }

/-- What starting a flash operation does beside changing ROM (`41_flash.md` R117, R120, R121). -/
def State.startOperation (s : State) (latency : Nat) : State :=
  { s with active := true, deadline := s.now + latency, seq := 0x03 }

/-- FLASH_COMPLETE (`41_flash.md` R113). -/
def State.completeOperation (s : State) : State := { s with active := false, seq := 0x00 }

/-- An operation is in progress and its deadline has passed; equality counts as passed (`41_flash.md` R111 to R113). -/
def State.operationDone (s : State) : Bool := s.active && s.deadline ≤ s.now

/-- The completion check at the start of a ROM write (`41_flash.md` R112). -/
def State.settle (s : State) : State := if s.operationDone then s.completeOperation else s

/-- `capture_on <- b` (`60_exceptions.md` R179). -/
def State.setCapture (s : State) (b : Bool) : State := { s with captureOn := b }

end Sys2Proof.Machine
end

