-- ==== Sys2Proof/Machine/Operands.lean ====
section
/-! DEFINITION. The operand forms: how a CPU address and a page byte name a physical byte, and which sector an offset is
in. -/

namespace Sys2Proof.Machine

/-- The page register with number `i` (`10_state.md` R14). -/
def State.page (s : State) (i : BitVec 2) : Byte := s.pr[i.toNat]'i.isLt

/-- The region class of a page byte (`30_encoding.md` R78). -/
def regionOf (p : Byte) : Region :=
  if p &&& 0xE0 = 0x20 then .ram else if p &&& 0xE0 = 0x40 then .video else .rom

/-- The offset `{p[4:0], a[13:0]}` (`30_encoding.md` R79): 32 banks of `BANK_SIZE` = 2^14 bytes (`90_conflicts.md` C1). -/
def pagedOffset (p : Byte) (a : Addr) : Offset := bankOf p ++ lowOf a

/-- The offset `zext_19(a[13:0])` (`30_encoding.md` R80). -/
def unpagedOffset (a : Addr) : Offset := (lowOf a).setWidth 19

/-- The physical byte an address names under a given page byte (`40_paging.md` R101; `60_exceptions.md` R174). -/
def translateBy (p : Byte) (a : Addr) : Region × Offset := (regionOf p, pagedOffset p a)

/-- `Translate(a, PE, PR)` (`40_paging.md` R101). -/
def State.translate (s : State) (a : Addr) : Region × Offset :=
  if s.pe then translateBy (s.page (quadrantOf a)) a else (.rom, unpagedOffset a)

/-- The 4KB-aligned start of the sector of an offset (`41_flash.md` R121). -/
def sectorBase (o : Offset) : Offset := o &&& 0x7F000

end Sys2Proof.Machine
end

