-- ==== Sys2Proof/Machine/Ops.lean ====
section
/-! DEFINITION. The named operations over memory, registers, the ring buffer and the outside. `P` is the parameters; every
meaning passes `Config.params`. The block takes no exception and returns from none (`60_exceptions.md` R160, R163), so
there is no operation for either. -/

namespace Sys2Proof.Machine

/-! ### Memory: a list of bytes that differ from `u`, what an unlisted byte reads as -/

/-- The byte at an offset. -/
def Memory.read (u : Nat → Byte) : Memory → Nat → Byte
  | [], a => u a
  | c :: m, a => if a = c.1 then c.2 else Memory.read u m a

/-- Lists `v` at `a`, in place of what is listed there. -/
def Memory.insert (a : Nat) (v : Byte) : Memory → Memory
  | [] => [(a, v)]
  | c :: m => if a < c.1 then (a, v) :: c :: m else if a = c.1 then (a, v) :: m else c :: Memory.insert a v m

/-- Stores one byte; a byte equal to what the unlisted one reads as is not listed. -/
def Memory.write (u : Nat → Byte) (m : Memory) (a : Nat) (v : Byte) : Memory :=
  if v = u a then m.filter (fun c => c.1 ≠ a) else Memory.insert a v m

/-- The entries of `n` bytes of value `v` from `lo` on. -/
def Memory.run (u : Nat → Byte) (v : Byte) : Nat → Nat → Memory
  | _, 0 => []
  | lo, n + 1 => if v = u lo then Memory.run u v (lo + 1) n else (lo, v) :: Memory.run u v (lo + 1) n

/-- Stores `v` in the `n` bytes from `lo` on. -/
def Memory.fill (u : Nat → Byte) (m : Memory) (lo n : Nat) (v : Byte) : Memory :=
  m.filter (fun c => c.1 < lo) ++ (Memory.run u v lo n ++ m.filter (fun c => lo + n ≤ c.1))

/-- The offsets rise strictly. -/
def Memory.rising : Memory → Bool
  | [] => true
  | [_] => true
  | c :: d :: m => decide (c.1 < d.1) && Memory.rising (d :: m)

/-- The canonical form: offsets strictly rising, no entry equal to what an unlisted byte reads as. -/
def Memory.wf (u : Nat → Byte) (m : Memory) : Bool := Memory.rising m && m.all (fun c => c.2 != u c.1)

/-- What an unlisted ROM byte reads as: `ROM_IMAGE`, or 0xFF once the chip has been erased (log 10). -/
def State.romUnlisted (P : Params) (s : State) (o : Nat) : Byte := if s.romErased then 0xFF else P.romImage o

/-- What an unlisted RAM byte reads as: its free reset value. DESIGN CHOICE: log 3. -/
def ramUnlisted (P : Params) (o : Nat) : Byte := P.ramReset o

/-- `ROM[o]` (`00_scope.md` R9). -/
def State.romByte (P : Params) (s : State) (o : Nat) : Byte := Memory.read (s.romUnlisted P) s.rom o

/-- `RAM[o]` (`00_scope.md` R9). -/
def State.ramByte (P : Params) (s : State) (o : Nat) : Byte := Memory.read (ramUnlisted P) s.ram o

/-- `RAM[o] <- d` (`40_paging.md` R104). -/
def State.writeRam (P : Params) (s : State) (o : Offset) (d : Byte) : State :=
  { s with ram := Memory.write (ramUnlisted P) s.ram o.toNat d }

/-- `ROM[o] <- d` (`41_flash.md` R117). -/
def State.programRom (P : Params) (s : State) (o : Offset) (d : Byte) : State :=
  { s with rom := Memory.write (s.romUnlisted P) s.rom o.toNat d }

/-- Every byte of the sector of `o` becomes 0xFF (`41_flash.md` R121). -/
def State.eraseSector (P : Params) (s : State) (o : Offset) : State :=
  { s with rom := Memory.fill (s.romUnlisted P) s.rom (sectorBase o).toNat sectorSize 0xFF }

/-- Every byte of ROM becomes 0xFF (`41_flash.md` R120). -/
def State.eraseChip (s : State) : State := { s with rom := [], romErased := true }

/-! ### Registers -/

/-- `PR[i] <- v` (`40_paging.md` R105). -/
def State.setPage (s : State) (i : BitVec 2) (v : Byte) : State := { s with pr := s.pr.set i.toNat v i.isLt }

/-- `seq <- c`. -/
def State.setSeq (s : State) (c : Byte) : State := { s with seq := c }

/-- `tmask <- tmask XOR 0x40` (`41_flash.md` R126). -/
def State.flipMask (s : State) : State := { s with tmask := s.tmask ^^^ toggleFlip }

/-- `volume <- v` (`42_audio.md` R153). -/
def State.setVolume (s : State) (v : Nat) : State := { s with volume := v }

/-! ### The outside -/

/-- Hands an answer over (log 5). -/
def State.answer (s : State) (a : Answer) : State := { s with out := s.out ++ [a] }

/-- Draws a free byte, `draw byte` (`00_scope.md` R9), and hands it over (log 6). -/
def State.answerDraw (P : Params) (s : State) : State :=
  { s with out := s.out ++ [.byte (P.freeByte s.draws)], draws := s.draws + 1 }

/-- A read that translates to VIDEO (`40_paging.md` R103): handed to the peripheral, whose byte is a draw. -/
def State.videoRead (P : Params) (s : State) (a : Addr) (off : Offset) : State :=
  if P.videoPresent then (s.answer (.videoRead a off s.now)).answerDraw P
  else s.answer (.byte P.videoAbsentReadValue)

/-- A write that translates to VIDEO (`40_paging.md` R104): handed to the peripheral, or dropped. -/
def State.videoWrite (P : Params) (s : State) (a : Addr) (off : Offset) (d : Byte) : State :=
  if P.videoPresent then s.answer (.videoWrite a off d s.now) else s

/-! ### The ring buffer -/

/-- AUDIO_PUSH (`42_audio.md` R144): append if there is room, else drop the newest. -/
def State.pushSample (P : Params) (s : State) (x : Sample) : State :=
  if s.avail < P.audioCap then
    { s with buf := s.buf.set s.wr x, wr := (s.wr + 1) % P.audioCap, avail := s.avail + 1 }
  else s

/-- The sample AUDIO_POP delivers (`42_audio.md` R146, R147). -/
def State.nextOut (s : State) : Sample := if 0 < s.avail then s.buf.getD s.rd s.last else s.last

/-- AUDIO_POP's effect on the ring and the capture sink (`42_audio.md` R146, R147, R152). -/
def State.popSample (P : Params) (s : State) : State :=
  { s with
    rd := if 0 < s.avail then (s.rd + 1) % P.audioCap else s.rd
    avail := s.avail - 1
    last := s.nextOut
    capture := if s.captureOn then s.capture ++ [s.nextOut] else s.capture }

/-- `n` pops in a row, with the samples they deliver (`42_audio.md` R148). -/
def State.popSamples (P : Params) : Nat → State → List Sample × State
  | 0, s => ([], s)
  | n + 1, s =>
    let r := State.popSamples P n (s.popSample P)
    (s.nextOut :: r.1, r.2)

/-- `next_sample <- t` (`42_audio.md` R142). -/
def State.setNextSample (s : State) (t : Nat) : State := { s with nextSample := t }

/-- The sample the sampler takes now: the level of the sampled bit (`42_audio.md` R141, R143). -/
def State.sampleNow (P : Params) (s : State) : Sample := P.level (s.mcr.getLsbD P.audioMcrBit.toNat) s.volume

/-- AUDIO_SAMPLE (`42_audio.md` R142). -/
def State.sampleAudio (P : Params) (s : State) : State :=
  if s.nextSample ≤ s.now then
    (s.pushSample P (s.sampleNow P)).setNextSample (s.nextSample + P.samplePeriodPs)
  else s

/-! ### Time -/

/-- The start of a tick: `now <- now + CLOCK_CYCLE_PS` (`10_state.md` R13). -/
def State.beginTick (P : Params) (s : State) : State := { s with now := s.now + P.clockCyclePs }

/-- The end of a tick: the audio sample (`60_exceptions.md` R165, step 10). -/
def State.endTick (P : Params) (s : State) : State := s.sampleAudio P

/-- `n` ticks with no request (`40_paging.md` R109). -/
def State.idleTicks (P : Params) : Nat → State → State
  | 0, s => s
  | n + 1, s => State.idleTicks P n ((s.beginTick P).endTick P)

end Sys2Proof.Machine
end

