-- ==== Sys2Proof/Machine/Audio.lean ====
section
/-! DEFINITION. The audio sampler family (`42_audio.md`): the producer's, the consumer's and the host's operations. -/

namespace Sys2Proof.Machine

/-- AUDIO_SAMPLE (R142). -/
def execAudioSample (s : State) : Host.Outcome State Fault Refusal := .next (s.sampleAudio Config.params)

/-- AUDIO_PUSH (R144). -/
def execAudioPush (x : Sample) (s : State) : Host.Outcome State Fault Refusal := .next (s.pushSample Config.params x)

/-- AUDIO_POP (R146): the sample is handed to the consumer. -/
def execAudioPop (s : State) : Host.Outcome State Fault Refusal :=
  .next ((s.popSample Config.params).answer (.samples [s.nextOut]))

/-- AUDIO_CALLBACK (R148): `n` pops, their samples handed over together. -/
def execAudioCallback (n : Nat) (s : State) : Host.Outcome State Fault Refusal :=
  .next ((s.popSamples Config.params n).2.answer (.samples (s.popSamples Config.params n).1))

/-- AUDIO_SET_VOLUME (R153). -/
def execAudioSetVolume (v : Nat) (s : State) : Host.Outcome State Fault Refusal := .next (s.setVolume v)

end Sys2Proof.Machine
end

