-- ==== Sys2Proof/Machine/Flash.lean ====
section
/-! DEFINITION. The flash sequencer family (`41_flash.md`). Each FW operation is what its rule's pseudocode does once it is
selected; FLASH_WRITE selects (R112), and `decodeFlash` is the same selection as the match-and-mask table of R87. -/

namespace Sys2Proof.Machine

/-! ### The operations on the state -/

/-- `o ~ A5` (R112): the offset equals 0x05555 in the bits that are compared. -/
def isA5 (P : Params) (o : Offset) : Bool := o &&& P.cmdAddrMask == 0x05555 &&& P.cmdAddrMask

/-- `o ~ A2` (R112): the offset equals 0x02AAA in the bits that are compared. -/
def isA2 (P : Params) (o : Offset) : Bool := o &&& P.cmdAddrMask == 0x02AAA &&& P.cmdAddrMask

/-- FLASH_PROGRAM (R117). -/
def State.flashProgram (P : Params) (s : State) (o : Offset) (d : Byte) : State :=
  (s.programRom P o d).startOperation P.tByteProgramPs

/-- FLASH_CHIP_ERASE (R120). -/
def State.flashChipErase (P : Params) (s : State) : State := s.eraseChip.startOperation P.tChipErasePs

/-- FLASH_SECTOR_ERASE (R121). -/
def State.flashSectorErase (P : Params) (s : State) (o : Offset) : State :=
  (s.eraseSector P o).startOperation P.tSectorErasePs

/-- FLASH_WRITE after the completion check: the case analysis of R112 on `seq`. -/
def State.flashStep (P : Params) (s : State) (o : Offset) (d : Byte) : State :=
  if s.seq = 0x00 then if isA5 P o && d == 0xAA then s.setSeq 0x01 else s.setSeq 0x00
  else if s.seq = 0x01 then if isA2 P o && d == 0x55 then s.setSeq 0x02 else s.setSeq 0x00
  else if s.seq = 0x02 then if isA5 P o && d &&& 0xF0 != 0 then s.setSeq d else s.setSeq 0x00
  else if s.seq = 0xA0 then s.flashProgram P o d
  else if s.seq = 0x80 then if isA5 P o && d == 0xAA then s.setSeq 0x81 else s.setSeq 0x00
  else if s.seq = 0x81 then if isA2 P o && d == 0x55 then s.setSeq 0x82 else s.setSeq 0x00
  else if s.seq = 0x82 then
    if isA5 P o && d == 0x10 then s.flashChipErase P
    else if d = 0x30 then s.flashSectorErase P o
    else s.setSeq 0x00
  else if s.seq = 0x03 then s
  else s.setSeq 0x00

/-- FLASH_WRITE (R112): the completion check, then the case analysis. -/
def State.flashWrite (P : Params) (s : State) (o : Offset) (d : Byte) : State := s.settle.flashStep P o d

/-- FLASH_READ (R111). -/
def State.flashRead (P : Params) (s : State) (o : Offset) : State :=
  if s.active then
    if s.deadline ≤ s.now then (s.completeOperation).answer (.byte (s.romByte P o.toNat))
    else (s.answer (.byte (s.romByte P o.toNat ^^^ s.tmask))).flipMask
  else s.answer (.byte (s.romByte P o.toNat))

/-! ### The meanings -/

/-- FLASH_UNLOCK1 (R114). -/
def execFlashUnlock1 (_off : Offset) (s : State) : Host.Outcome State Fault Refusal := .next (s.setSeq 0x01)

/-- FLASH_UNLOCK2 (R115). -/
def execFlashUnlock2 (_off : Offset) (s : State) : Host.Outcome State Fault Refusal := .next (s.setSeq 0x02)

/-- FLASH_RESET, a command byte with a zero high nibble (R122, R87 row 3). -/
def execFlashResetCommand (_off : Offset) (_lo : BitVec 4) (s : State) : Host.Outcome State Fault Refusal :=
  .next (s.setSeq 0x00)

/-- FLASH_CMD (R116): the byte is stored whatever it is. -/
def execFlashCmd (_off : Offset) (d : Byte) (s : State) : Host.Outcome State Fault Refusal := .next (s.setSeq d)

/-- FLASH_PROGRAM (R117). -/
def execFlashProgram (off : Offset) (d : Byte) (s : State) : Host.Outcome State Fault Refusal :=
  .next (s.flashProgram Config.params off d)

/-- FLASH_ERASE_UNLOCK1 (R118). -/
def execFlashEraseUnlock1 (_off : Offset) (s : State) : Host.Outcome State Fault Refusal := .next (s.setSeq 0x81)

/-- FLASH_ERASE_UNLOCK2 (R119). -/
def execFlashEraseUnlock2 (_off : Offset) (s : State) : Host.Outcome State Fault Refusal := .next (s.setSeq 0x82)

/-- FLASH_CHIP_ERASE (R120). -/
def execFlashChipErase (_off : Offset) (s : State) : Host.Outcome State Fault Refusal :=
  .next (s.flashChipErase Config.params)

/-- FLASH_SECTOR_ERASE (R121). -/
def execFlashSectorErase (off : Offset) (s : State) : Host.Outcome State Fault Refusal :=
  .next (s.flashSectorErase Config.params off)

/-- FLASH_BUSY_IGNORE (R123): nothing. -/
def execFlashBusyIgnore (_off : Offset) (_d : Byte) (s : State) : Host.Outcome State Fault Refusal := .next s

/-- FLASH_RESET, every other write (R122, R87 row 11). -/
def execFlashReset (_code : Byte) (_off : Offset) (_d : Byte) (s : State) : Host.Outcome State Fault Refusal :=
  .next (s.setSeq 0x00)

/-- FLASH_READ (R111). -/
def execFlashRead (o : Offset) (s : State) : Host.Outcome State Fault Refusal := .next (s.flashRead Config.params o)

/-- FLASH_WRITE (R112). -/
def execFlashWrite (o : Offset) (d : Byte) (s : State) : Host.Outcome State Fault Refusal :=
  .next (s.flashWrite Config.params o d)

/-- FLASH_COMPLETE (R113). -/
def execFlashComplete (s : State) : Host.Outcome State Fault Refusal := .next s.completeOperation

end Sys2Proof.Machine
end

