-- ==== Sys2Proof/Machine/Paging.lean ====
section
/-! DEFINITION. The paging family (`40_paging.md`): translation, the dispatch of memory requests, the paging ports. A
meaning is the service of the request; a tick around it is `runTick`. -/

namespace Sys2Proof.Machine

/-- Hands over the result of a translation. -/
def State.answerTranslation (s : State) (r : Region × Offset) : State := s.answer (.translated r.1 r.2)

/-- A memory read once it is translated (R103). -/
def State.readAt (P : Params) (s : State) (a : Addr) (r : Region × Offset) : State :=
  match r.1 with
  | .ram => s.answer (.byte (s.ramByte P r.2.toNat))
  | .video => s.videoRead P a r.2
  | .rom => s.flashRead P r.2

/-- A memory write once it is translated (R104; `60_exceptions.md` R174). -/
def State.writeAt (P : Params) (s : State) (a : Addr) (r : Region × Offset) (d : Byte) : State :=
  match r.1 with
  | .ram => s.writeRam P r.2 d
  | .video => s.videoWrite P a r.2 d
  | .rom => s.flashWrite P r.2 d

/-- TRANSLATE.RAM (R101): class 001. -/
def execTranslateRam (bank : BitVec 5) (lo : BitVec 14) (s : State) : Host.Outcome State Fault Refusal :=
  .next (s.answerTranslation (.ram, bank ++ lo))

/-- TRANSLATE.VIDEO (R101): class 010; the offset is delivered with the flag. -/
def execTranslateVideo (bank : BitVec 5) (lo : BitVec 14) (s : State) : Host.Outcome State Fault Refusal :=
  .next (s.answerTranslation (.video, bank ++ lo))

/-- TRANSLATE.ROM (R101): every other class. -/
def execTranslateRom (_cls : BitVec 3) (bank : BitVec 5) (lo : BitVec 14) (s : State) :
    Host.Outcome State Fault Refusal :=
  .next (s.answerTranslation (.rom, bank ++ lo))

/-- TRANSLATE (R101). -/
def execTranslate (a : Addr) (s : State) : Host.Outcome State Fault Refusal :=
  .next (s.answerTranslation (s.translate a))

/-- MEM_READ (R103). -/
def execMemRead (a : Addr) (s : State) : Host.Outcome State Fault Refusal :=
  .next (s.readAt Config.params a (s.translate a))

/-- MEM_WRITE (R104). -/
def execMemWrite (a : Addr) (d : Byte) (s : State) : Host.Outcome State Fault Refusal :=
  .next (s.writeAt Config.params a (s.translate a) d)

/-- OUT_PAGE_SELECT (R105): all eight bits are stored; port bit 3 is not decoded. -/
def execOutPageSelect (_x : BitVec 1) (r : BitVec 2) (d : Byte) (s : State) : Host.Outcome State Fault Refusal :=
  .next (s.setPage r d)

/-- OUT_PAGING_ENABLE (R106): data bit 0 is the flag; port bits 3, 1 and 0 are not decoded. -/
def execOutPagingEnable (_x : BitVec 1) (_y : BitVec 2) (d : Byte) (s : State) : Host.Outcome State Fault Refusal :=
  .next (s.setPe (d.getLsbD 0))

/-- IN_PAGING (R107): a free byte; no state of the block changes. -/
def execInPaging (_low : BitVec 4) (s : State) : Host.Outcome State Fault Refusal :=
  .next (s.answerDraw Config.params)

/-- IO_OTHER (R108): not the block's; nothing changes and no byte is returned. -/
def execIoOther (_wr : Bool) (_port _d : Byte) (s : State) : Host.Outcome State Fault Refusal := .next s

/-- IDLE_TICK (R109): `n` ticks without a request; time advances and the audio sampler may sample. -/
def execIdleTick (n : Nat) (s : State) : Host.Outcome State Fault Refusal := .next (s.idleTicks Config.params n)

end Sys2Proof.Machine
end

