-- ==== Sys2Proof/Machine/HostAccess.lean ====
section
/-! DEFINITION. The host's operations (`60_exceptions.md` R172 to R175, R179). They take no tick. -/

namespace Sys2Proof.Machine

/-- A snapshot of one byte: raw, without the mask, without completing an operation (R175); a VIDEO byte is the video
collaborator's, a draw. DESIGN CHOICE: log 20. -/
def State.snapshot (P : Params) (s : State) (r : Region × Offset) : State :=
  match r.1 with
  | .ram => s.answer (.byte (s.ramByte P r.2.toNat))
  | .video => s.answerDraw P
  | .rom => s.answer (.byte (s.romByte P r.2.toNat))

/-- HOST_SET_PAGE (R173). -/
def execHostSetPage (j : BitVec 2) (v : Byte) (s : State) : Host.Outcome State Fault Refusal := .next (s.setPage j v)

/-- HOST_SET_PE (R173). -/
def execHostSetPe (b : Bool) (s : State) : Host.Outcome State Fault Refusal := .next (s.setPe b)

/-- HOST_MEM_WRITE (R174): through the region test and the sequencer; `PE` and `PR` are not consulted. -/
def execHostMemWrite (p : Byte) (a : Addr) (d : Byte) (s : State) : Host.Outcome State Fault Refusal :=
  .next (s.writeAt Config.params a (translateBy p a) d)

/-- HOST_MEM_READ (R175). -/
def execHostMemRead (p : Byte) (a : Addr) (s : State) : Host.Outcome State Fault Refusal :=
  .next (s.snapshot Config.params (translateBy p a))

/-- HOST_CAPTURE (R179). -/
def execHostCapture (b : Bool) (s : State) : Host.Outcome State Fault Refusal := .next (s.setCapture b)

end Sys2Proof.Machine
end

