-- ==== Sys2Proof/Machine/Dispatch.lean ====
section
/-! DEFINITION. One arm per operation. -/

namespace Sys2Proof.Machine

def exec (i : Instr) (s : State) : Host.Outcome State Fault Refusal :=
  match i with
  | .flashUnlock1 off => Sys2Proof.Machine.execFlashUnlock1 off s
  | .flashUnlock2 off => Sys2Proof.Machine.execFlashUnlock2 off s
  | .flashResetCommand off lo => Sys2Proof.Machine.execFlashResetCommand off lo s
  | .flashCmd off d => Sys2Proof.Machine.execFlashCmd off d s
  | .flashProgram off d => Sys2Proof.Machine.execFlashProgram off d s
  | .flashEraseUnlock1 off => Sys2Proof.Machine.execFlashEraseUnlock1 off s
  | .flashEraseUnlock2 off => Sys2Proof.Machine.execFlashEraseUnlock2 off s
  | .flashChipErase off => Sys2Proof.Machine.execFlashChipErase off s
  | .flashSectorErase off => Sys2Proof.Machine.execFlashSectorErase off s
  | .flashBusyIgnore off d => Sys2Proof.Machine.execFlashBusyIgnore off d s
  | .flashReset code off d => Sys2Proof.Machine.execFlashReset code off d s
  | .translateRam bank lo => Sys2Proof.Machine.execTranslateRam bank lo s
  | .translateVideo bank lo => Sys2Proof.Machine.execTranslateVideo bank lo s
  | .translateRom cls bank lo => Sys2Proof.Machine.execTranslateRom cls bank lo s
  | .memRead a => Sys2Proof.Machine.execMemRead a s
  | .memWrite a d => Sys2Proof.Machine.execMemWrite a d s
  | .idleTick n => Sys2Proof.Machine.execIdleTick n s
  | .audioCallback n => Sys2Proof.Machine.execAudioCallback n s
  | .outPageSelect x r d => Sys2Proof.Machine.execOutPageSelect x r d s
  | .outPagingEnable x y d => Sys2Proof.Machine.execOutPagingEnable x y d s
  | .inPaging low => Sys2Proof.Machine.execInPaging low s
  | .ioOther wr port d => Sys2Proof.Machine.execIoOther wr port d s
  | .translate a => Sys2Proof.Machine.execTranslate a s
  | .flashRead o => Sys2Proof.Machine.execFlashRead o s
  | .flashWrite o d => Sys2Proof.Machine.execFlashWrite o d s
  | .flashComplete => Sys2Proof.Machine.execFlashComplete s
  | .audioSample => Sys2Proof.Machine.execAudioSample s
  | .audioPush x => Sys2Proof.Machine.execAudioPush x s
  | .audioPop => Sys2Proof.Machine.execAudioPop s
  | .audioSetVolume v => Sys2Proof.Machine.execAudioSetVolume v s
  | .hostSetPage j v => Sys2Proof.Machine.execHostSetPage j v s
  | .hostSetPe b => Sys2Proof.Machine.execHostSetPe b s
  | .hostMemWrite p a d => Sys2Proof.Machine.execHostMemWrite p a d s
  | .hostMemRead p a => Sys2Proof.Machine.execHostMemRead p a s
  | .hostCapture b => Sys2Proof.Machine.execHostCapture b s

end Sys2Proof.Machine
end

