-- ==== Sys2Proof/Machine/Tick.lean ====
section
/-! DEFINITION. What one input makes the machine do: the order of events in a tick (`60_exceptions.md` R165) around the
operations it services. -/

namespace Sys2Proof.Machine

/-- Goes on from a next state; a stop stays a stop. -/
def andThen (o : Host.Outcome State Fault Refusal) (f : State → Host.Outcome State Fault Refusal) :
    Host.Outcome State Fault Refusal :=
  match o with
  | .next s => f s
  | .fault r => .fault r
  | .refused r => .refused r

/-- The operations one after the other. -/
def execAll : List Instr → State → Host.Outcome State Fault Refusal
  | [], s => .next s
  | i :: is, s => andThen (exec i s) (execAll is)

/-- One tick: time advances, the requests are serviced in order, the audio sample comes last (R165, steps 1, 6, 7, 10). -/
def runTick (ops : List Instr) (s : State) : Host.Outcome State Fault Refusal :=
  andThen (execAll ops (s.beginTick Config.params)) (fun t => .next (t.endTick Config.params))

/-- The UART's modem-control byte as it stands from now on (`42_audio.md` R141; log 7). -/
def State.setMcr (s : State) (b : Byte) : State := { s with mcr := b }

/-- What one move does. A flash write word is formed after the completion check and with the code the sequencer then has
(`30_encoding.md` R86; log 11). -/
def runMove (m : Move) (s : State) : Host.Outcome State Fault Refusal :=
  match m with
  | .bus ops => runTick ops s
  | .act i => exec i s
  | .flash code i => if s.settle.seq = code then exec i s.settle else .refused (.flashWordNotFormed code)
  | .uart b => .next (s.setMcr b)

/-- The state in which the next input is taken: it leaves the queue, and the last step's answers are gone. -/
def State.take (s : State) (rest : List Input) : State := { s with inputs := rest, out := [] }

/-- What one input does. -/
def runInput (i : Input) (s : State) : Host.Outcome State Fault Refusal :=
  match decode i with
  | some m => runMove m s
  | none => .refused (.unusedEventWord i)

/-- The state in which a table row's coded form can run next: a flash write word needs its state code to be the
sequencer's, and state code 3 an operation in progress (`10_state.md` R24; log 12). -/
def State.readyFor (s : State) : Input → State
  | .flashWord w =>
    if fwCode w = 0x03 then { s with seq := 0x03, active := true, deadline := s.now + 1 }
    else { s with seq := fwCode w, active := false }
  | _ => s

end Sys2Proof.Machine
end

