-- ==== Sys2Proof/Machine/Step.lean ====
section
/-! DEFINITION. One step: the next thing the environment does, or an idle tick when it does nothing (log 1). -/

namespace Sys2Proof.Machine

/-- One step of the machine. -/
def step (s : State) : Host.Outcome State Fault Refusal :=
  match s.inputs with
  | [] => exec (.idleTick 1) (s.take [])
  | i :: rest => runInput i (s.take rest)

/-- `s` with the instruction of a table row placed so that the next step runs it (log 12). -/
def State.withFetchWord (s : State) (nbits w : Nat) : State :=
  match tableInput nbits w with
  | none => s
  | some i =>
    let t := s.readyFor i
    { t with inputs := i :: t.inputs }

end Sys2Proof.Machine
end

