-- ==== Sys2Proof/Safety.lean ====
section
/-! DEFINITION. The terms the claims about the machine use: which parts of two states agree, what the ring buffer holds,
and the invariant that holds at reset and after every step. -/

namespace Sys2Proof.Machine

/-! ### The parts of the state that an operation leaves alone -/

/-- The page registers and `PE` are the same. -/
abbrev SamePaging (s t : State) : Prop := t.pe = s.pe ∧ t.pr = s.pr

/-- Every byte of RAM reads the same. -/
abbrev SameRam (s t : State) : Prop := ∀ a, t.ramByte Config.params a = s.ramByte Config.params a

/-- Every byte of ROM is the same. -/
abbrev SameRom (s t : State) : Prop := ∀ a, t.romByte Config.params a = s.romByte Config.params a

/-- The sequencer's registers are the same. -/
abbrev SameFlashRegs (s t : State) : Prop :=
  t.seq = s.seq ∧ t.active = s.active ∧ t.deadline = s.deadline ∧ t.tmask = s.tmask

/-- The ring buffer, its cursors and its count are the same. -/
abbrev SameRing (s t : State) : Prop := t.buf = s.buf ∧ t.rd = s.rd ∧ t.wr = s.wr ∧ t.avail = s.avail

/-- The other audio state is the same. -/
abbrev SameAudioRegs (s t : State) : Prop :=
  t.last = s.last ∧ t.nextSample = s.nextSample ∧ t.volume = s.volume ∧ t.captureOn = s.captureOn ∧
    t.capture = s.capture

/-- Time and the inputs are the same. -/
abbrev SameTime (s t : State) : Prop := t.now = s.now ∧ t.mcr = s.mcr ∧ t.inputs = s.inputs

/-- All of the audio sampler's state is the same. -/
abbrev SameAudio (s t : State) : Prop := SameRing s t ∧ SameAudioRegs s t

/-- All state of the block is the same. -/
abbrev SameBlock (s t : State) : Prop :=
  SamePaging s t ∧ SameRam s t ∧ SameRom s t ∧ SameFlashRegs s t ∧ SameAudio s t ∧ SameTime s t

/-- Nothing was handed to the outside and no free byte was drawn. -/
abbrev Silent (s t : State) : Prop := t.out = s.out ∧ t.draws = s.draws

/-- Exactly these answers were handed over, and no free byte was drawn. -/
abbrev Answers (s t : State) (xs : List Answer) : Prop := t.out = s.out ++ xs ∧ t.draws = s.draws

/-! ### The ring buffer -/

/-- The undelivered samples, oldest first (`10_state.md` R28). -/
def State.undelivered (s : State) : List Sample :=
  (List.range s.avail).map (fun k => s.buf.getD ((s.rd + k) % Config.params.audioCap) 0)

/-- The ring invariant (`10_state.md` R25 to R28). -/
structure RingOk (s : State) : Prop where
  length : s.buf.length = Config.params.audioCap
  count : s.avail ≤ Config.params.audioCap
  cursor : s.rd < Config.params.audioCap
  gap : s.wr = (s.rd + s.avail) % Config.params.audioCap

/-! ### The invariant -/

/-- The sequencer's registers agree with each other (`10_state.md` R20, R23, R24). -/
structure FlashOk (s : State) : Prop where
  busy : s.active = true ↔ s.seq = 0x03
  code : s.seq.toNat < 4 ∨ 16 ≤ s.seq.toNat
  mask : s.tmask = Config.params.toggleMaskReset ∨ s.tmask = Config.params.toggleMaskReset ^^^ toggleFlip

/-- Both memories are in canonical form and list no byte outside their arrays (`10_state.md` R18; log 10). -/
structure MemoryOk (s : State) : Prop where
  rom : Memory.wf (s.romUnlisted Config.params) s.rom = true
  ram : Memory.wf (ramUnlisted Config.params) s.ram = true
  romBound : ∀ c ∈ s.rom, c.1 < Config.params.romSize
  ramBound : ∀ c ∈ s.ram, c.1 < Config.params.ramSize

/-- Every sample held fits `SAMPLE_BITS` signed bits (`10_state.md` R25, R29). -/
structure SamplesOk (s : State) : Prop where
  buf : ∀ x ∈ s.buf, Config.params.inRange x
  last : Config.params.inRange s.last
  capture : ∀ x ∈ s.capture, Config.params.inRange x

/-- The next sample is due at the first multiple of the period after `now` (`42_audio.md` R142, R155). -/
abbrev ScheduleOk (s : State) : Prop :=
  s.nextSample = Config.params.samplePeriodPs * (s.now / Config.params.samplePeriodPs + 1)

/-- What holds at reset and after every step. -/
structure MachineOk (s : State) : Prop where
  flash : FlashOk s
  memory : MemoryOk s
  ring : RingOk s
  samples : SamplesOk s
  schedule : ScheduleOk s

end Sys2Proof.Machine
end

