-- ==== Sys2Proof/Certificates/Slice0/Obligations.lean ====
section
/-! DEFINITION. The statements about the machine, for the provers. `Config.params` has no body, so each holds for every value
of every parameter; a statement that names `Config.params.freeByte` holds whatever free byte is drawn (log 6). -/

open Sys2Proof Sys2Proof.Machine

/-! ### Encoding -/

/-- `30_encoding.md` R86, R87, R93, R95: the encoder and the decoder agree on every well-formed operation that has a coded
form, with every operand at every value its row admits. -/
def Obligations.DecodeOfEncodeIsTheOperation : Prop :=
  ∀ (i : Instr) (x : Input), i.wf = true → encode i = some x → decode x = some (moveOf i)

/-- The encoder gives no coded form to exactly the six operations selected by state or by time. `30_encoding.md` R95 gives
them no word; it gives none to the operations selected by the host either, nor to AUDIO_POP, and that HOST_SET_PAGE,
HOST_SET_PE, HOST_MEM_WRITE, HOST_MEM_READ, HOST_CAPTURE, AUDIO_SET_VOLUME and AUDIO_POP have a coded form, an input of
their own, is the model's choice (DESIGN CHOICE: log 27). -/
def Obligations.OperationsSelectedByStateHaveNoWord : Prop :=
  ∀ i : Instr, encode i = none ↔
    (∃ a, i = .translate a) ∨ (∃ o, i = .flashRead o) ∨ (∃ o d, i = .flashWrite o d) ∨ i = .flashComplete ∨
      i = .audioSample ∨ (∃ x, i = .audioPush x)

/-- `30_encoding.md` R93 (its four examples of memory, tick and callback words), `95_test_vectors.md` F1, F14, F23 (write
words, under `CMD_ADDR_MASK` = 0x7FFFF) and B3 (port 0x7B, under nibble 7). -/
def Obligations.SpecWordsDecode : Prop :=
  decode (.event 0x205555AA) = some (.bus [.memWrite 0x5555 0xAA]) ∧
  decode (.event 0x10400000) = some (.bus [.memRead 0x4000]) ∧
  decode (.event 0x00000300) = some (.act (.idleTick 3)) ∧
  decode (.event 0x50000200) = some (.act (.audioCallback 2)) ∧
  decodeEventWith 7 0x40007401 = some (.bus [.outPagingEnable 0 0 0x01]) ∧
  decodePort 7 true 0x7B 0xFF = .outPageSelect 1 3 0xFF ∧
  decodeFlashWith 0x7FFFF 0x0005555AA = .flashUnlock1 0x05555 ∧
  decodeFlashWith 0x7FFFF 0x501000012 = .flashProgram 0x10000 0x12 ∧
  decodeFlashWith 0x7FFFF 0x411234530 = .flashSectorErase 0x12345

/-! ### Translation -/

/-- `40_paging.md` R101: what TRANSLATE answers, in numbers, in both translation modes; it changes no state. -/
def Obligations.TranslateFollowsThePagingMode : Prop :=
  ∀ (a : Addr) (s : State), ∃ t region off,
    exec (.translate a) s = .next t ∧ Answers s t [.translated region off] ∧ SameBlock s t ∧
    (s.pe = false → region = .rom ∧ off.toNat = a.toNat % 0x4000) ∧
    (s.pe = true →
      ∃ p : Byte, p = s.page (BitVec.ofNat 2 (a.toNat / 0x4000)) ∧
        off.toNat = p.toNat % 32 * 0x4000 + a.toNat % 0x4000 ∧
        (region = .ram ↔ p.toNat / 32 = 1) ∧ (region = .video ↔ p.toNat / 32 = 2) ∧
        (region = .rom ↔ p.toNat / 32 ≠ 1 ∧ p.toNat / 32 ≠ 2))

/-- `30_encoding.md` R78, R79: each TRANSLATE row answers its region and the offset `bank * 0x4000 + lo`, and changes no
state. -/
def Obligations.TranslateRowsAnswerTheirRegion : Prop :=
  ∀ (cls : BitVec 3) (bank : BitVec 5) (lo : BitVec 14) (s : State), ∃ t u v off,
    off.toNat = bank.toNat * 0x4000 + lo.toNat ∧
    exec (.translateRam bank lo) s = .next t ∧ Answers s t [.translated .ram off] ∧ SameBlock s t ∧
    exec (.translateVideo bank lo) s = .next u ∧ Answers s u [.translated .video off] ∧ SameBlock s u ∧
    exec (.translateRom cls bank lo) s = .next v ∧ Answers s v [.translated .rom off] ∧ SameBlock s v

/-- `30_encoding.md` R95: with `PE` true, TRANSLATE is the first PRB row that takes the page byte of the quadrant. -/
def Obligations.TranslateIsTheRowOfThePageByte : Prop :=
  ∀ (a : Addr) (s : State), s.pe = true →
    exec (.translate a) s = exec (decodePage (s.page (quadrantOf a)) (lowOf a)) s

/-! ### Memory requests -/

/-- `40_paging.md` R103, `20_memory.md` R59: a read that translates to RAM returns the byte and changes nothing. -/
def Obligations.RamReadReturnsTheByte : Prop :=
  ∀ (a : Addr) (off : Offset) (s : State), s.translate a = (.ram, off) →
    ∃ t, exec (.memRead a) s = .next t ∧ Answers s t [.byte (s.ramByte Config.params off.toNat)] ∧ SameBlock s t

/-- `40_paging.md` R103 (decision D15; log 6): a read that translates to VIDEO returns the default value without a
peripheral and a free byte with one, and changes no state of the block. -/
def Obligations.VideoReadIsTheDefaultOrADraw : Prop :=
  ∀ (a : Addr) (off : Offset) (s : State), s.translate a = (.video, off) →
    ∃ t, exec (.memRead a) s = .next t ∧ SameBlock s t ∧
      (Config.params.videoPresent = false → Answers s t [.byte Config.params.videoAbsentReadValue]) ∧
      (Config.params.videoPresent = true →
        t.out = s.out ++ [.videoRead a off s.now, .byte (Config.params.freeByte s.draws)] ∧ t.draws = s.draws + 1)

/-- `40_paging.md` R103, R104: a request that translates to ROM is the sequencer's read or write at that offset. -/
def Obligations.RomRequestsGoToTheSequencer : Prop :=
  ∀ (a : Addr) (d : Byte) (off : Offset) (s : State), s.translate a = (.rom, off) →
    exec (.memRead a) s = exec (.flashRead off) s ∧ exec (.memWrite a d) s = exec (.flashWrite off d) s

/-- `40_paging.md` R104: a write that translates to RAM stores its byte and changes nothing else. -/
def Obligations.RamWriteStoresOneByte : Prop :=
  ∀ (a : Addr) (d : Byte) (off : Offset) (s : State), s.translate a = (.ram, off) →
    ∃ t, exec (.memWrite a d) s = .next t ∧ t.ramByte Config.params off.toNat = d ∧
      (∀ k, k ≠ off.toNat → t.ramByte Config.params k = s.ramByte Config.params k) ∧
      SamePaging s t ∧ SameRom s t ∧ SameFlashRegs s t ∧ SameAudio s t ∧ SameTime s t ∧ Silent s t

/-- `40_paging.md` R104 (decision D15): a write that translates to VIDEO is handed to the peripheral or dropped, and
changes no state of the block. -/
def Obligations.VideoWriteIsHandedOverOrDropped : Prop :=
  ∀ (a : Addr) (d : Byte) (off : Offset) (s : State), s.translate a = (.video, off) →
    ∃ t, exec (.memWrite a d) s = .next t ∧ SameBlock s t ∧
      (Config.params.videoPresent = false → Silent s t) ∧
      (Config.params.videoPresent = true → Answers s t [.videoWrite a off d s.now])

/-- `20_memory.md` R54, R65: what was written through one address is read through every address that names the same RAM
byte, and the other RAM bytes read as before. -/
def Obligations.RamReadsSeeTheLatestWrite : Prop :=
  ∀ (a b : Addr) (d : Byte) (off off' : Offset) (s : State),
    s.translate a = (.ram, off) → s.translate b = (.ram, off') →
    ∃ t u, exec (.memWrite a d) s = .next t ∧ exec (.memRead b) t = .next u ∧
      (off' = off → u.out = s.out ++ [.byte d]) ∧
      (off' ≠ off → u.out = s.out ++ [.byte (s.ramByte Config.params off'.toNat)])

/-! ### The paging ports -/

/-- `40_paging.md` R105 (decisions D5, D6): the page register is loaded with all eight bits whatever port bit 3 is, and
nothing else changes. -/
def Obligations.PageSelectLoadsOneRegister : Prop :=
  ∀ (x : BitVec 1) (r : BitVec 2) (d : Byte) (s : State), ∃ t, exec (.outPageSelect x r d) s = .next t ∧
    t.page r = d ∧ (∀ j, j ≠ r → t.page j = s.page j) ∧ t.pe = s.pe ∧
    SameRam s t ∧ SameRom s t ∧ SameFlashRegs s t ∧ SameAudio s t ∧ SameTime s t ∧ Silent s t

/-- `20_memory.md` R66, `70_reset_and_hazards.md` R194: after a page-select write, with paging on, an address of that
quadrant is translated by the new byte, and an address of another quadrant as before. -/
def Obligations.PageSelectGovernsTheNextAccess : Prop :=
  ∀ (x : BitVec 1) (r : BitVec 2) (d : Byte) (a : Addr) (s : State), s.pe = true →
    ∃ t, exec (.outPageSelect x r d) s = .next t ∧
      (quadrantOf a = r → t.translate a = translateBy d a) ∧ (quadrantOf a ≠ r → t.translate a = s.translate a)

/-- `40_paging.md` R106 (decision D7): `PE` becomes data bit 0, whatever port bits 3, 1 and 0 are, and nothing else
changes. -/
def Obligations.PagingEnableLoadsBitZero : Prop :=
  ∀ (x : BitVec 1) (y : BitVec 2) (d : Byte) (s : State), ∃ t, exec (.outPagingEnable x y d) s = .next t ∧
    (t.pe = true ↔ d.toNat % 2 = 1) ∧ t.pr = s.pr ∧
    SameRam s t ∧ SameRom s t ∧ SameFlashRegs s t ∧ SameAudio s t ∧ SameTime s t ∧ Silent s t

/-- `40_paging.md` R107 (decision D8; log 6): a read of a paging port returns a free byte and changes no state. -/
def Obligations.PagingPortReadIsADraw : Prop :=
  ∀ (low : BitVec 4) (s : State), ∃ t, exec (.inPaging low) s = .next t ∧
    t.out = s.out ++ [.byte (Config.params.freeByte s.draws)] ∧ t.draws = s.draws + 1 ∧ SameBlock s t

/-- `40_paging.md` R108: an I/O request to another port changes nothing and the block returns no byte. -/
def Obligations.OtherPortsLeaveTheBlockAlone : Prop :=
  ∀ (wr : Bool) (port d : Byte) (s : State), ∃ t, exec (.ioOther wr port d) s = .next t ∧ SameBlock s t ∧ Silent s t

/-- `30_encoding.md` R81 to R84 (decisions D4 to D6): an I/O request goes by its port byte: with the paging nibble a write
selects a page register where port bit 2 is 0 and the paging enable where it is 1, and a read is IN_PAGING; with any other
nibble, the keyboard's and the UART's among them, it is IO_OTHER. -/
def Obligations.PortsAreRoutedByTheirHighNibble : Prop :=
  ∀ (wr : Bool) (nib low : BitVec 4) (port d : Byte), port = portOf nib low →
    (nib = Config.params.pagingPortNibble →
      (wr = false → decodePort Config.params.pagingPortNibble wr port d = .inPaging low) ∧
      (wr = true → port.getLsbD 2 = false →
        decodePort Config.params.pagingPortNibble wr port d =
          .outPageSelect (port.extractLsb' 3 1) (port.extractLsb' 0 2) d) ∧
      (wr = true → port.getLsbD 2 = true →
        decodePort Config.params.pagingPortNibble wr port d =
          .outPagingEnable (port.extractLsb' 3 1) (port.extractLsb' 0 2) d)) ∧
    (nib ≠ Config.params.pagingPortNibble →
      decodePort Config.params.pagingPortNibble wr port d = .ioOther wr port d) ∧
    (nib = Config.params.keyboardNibble ∨ nib = Config.params.uartNibble →
      decodePort Config.params.pagingPortNibble wr port d = .ioOther wr port d)

/-! ### Ticks -/

/-- `40_paging.md` R109, `42_audio.md` R142 (decision D18): `n` idle ticks advance time by `n` clock periods; the producer's
state after them is that of one AUDIO_SAMPLE at the end of each tick; paging, memory, the sequencer and the consumer's
state do not change. That `n` ticks are one step is the model's choice (log 16). -/
def Obligations.IdleTicksAdvanceTimeAndSample : Prop :=
  ∀ (n : Nat) (s : State), exec (.idleTick 0) s = .next s ∧ ∃ t u,
    exec (.idleTick n) s = .next t ∧
    exec .audioSample { t with now := t.now + Config.params.clockCyclePs } = .next u ∧
    exec (.idleTick (n + 1)) s = .next u ∧
    t.now = s.now + n * Config.params.clockCyclePs ∧
    SamePaging s t ∧ SameRam s t ∧ SameRom s t ∧ SameFlashRegs s t ∧
    t.rd = s.rd ∧ t.last = s.last ∧ t.volume = s.volume ∧ t.captureOn = s.captureOn ∧ t.capture = s.capture ∧
    t.mcr = s.mcr ∧ t.inputs = s.inputs ∧ Silent s t

/-- `42_audio.md` R155, R142: in `n` idle ticks the producer attempts one push per sample period that ends in them, and
those that find room stay in the buffer. -/
def Obligations.IdleTicksSampleOncePerPeriod : Prop :=
  ∀ (n : Nat) (s : State), ScheduleOk s → s.avail ≤ Config.params.audioCap →
    ∃ t, exec (.idleTick n) s = .next t ∧ ScheduleOk t ∧
      t.avail = min Config.params.audioCap
        (s.avail + ((s.now + n * Config.params.clockCyclePs) / Config.params.samplePeriodPs -
          s.now / Config.params.samplePeriodPs))

/-! ### The flash sequencer -/

/-- `41_flash.md` R111: FLASH_READ in its three cases. -/
def Obligations.FlashReadMasksUntilTheDeadline : Prop :=
  ∀ (o : Offset) (s : State), ∃ t, exec (.flashRead o) s = .next t ∧
    SamePaging s t ∧ SameRam s t ∧ SameRom s t ∧ SameAudio s t ∧ SameTime s t ∧ t.deadline = s.deadline ∧
    (s.active = false → Answers s t [.byte (s.romByte Config.params o.toNat)] ∧ SameFlashRegs s t) ∧
    (s.active = true → s.deadline ≤ s.now →
      Answers s t [.byte (s.romByte Config.params o.toNat)] ∧ t.active = false ∧ t.seq = 0x00 ∧ t.tmask = s.tmask) ∧
    (s.active = true → s.now < s.deadline →
      Answers s t [.byte (s.romByte Config.params o.toNat ^^^ s.tmask)] ∧ t.tmask = s.tmask ^^^ 0x40 ∧
        t.active = true ∧ t.seq = s.seq)

/-- `41_flash.md` R126, `30_encoding.md` R90: two successive reads of one ROM byte during an operation differ in bit 6 and
in no other bit, and leave the mask as it was. -/
def Obligations.SuccessiveMaskedReadsDifferInBitSix : Prop :=
  ∀ (o : Offset) (s : State), s.active = true → s.now < s.deadline →
    ∃ t u b, exec (.flashRead o) s = .next t ∧ exec (.flashRead o) t = .next u ∧
      u.out = s.out ++ [.byte b, .byte (b ^^^ 0x40)] ∧ u.tmask = s.tmask ∧ u.active = true

/-- `41_flash.md` R112, R166, `30_encoding.md` R95: after the completion check, FLASH_WRITE is the operation of the first
row of the command map that takes the write word. -/
def Obligations.FlashWriteIsTheCommandMap : Prop :=
  ∀ (o : Offset) (d : Byte) (s : State), ∃ u,
    u = (if s.active = true ∧ s.deadline ≤ s.now then { s with active := false, seq := 0x00 } else s) ∧
    exec (.flashWrite o d) s = exec (decodeFlash (flashWordOf u.seq o d)) u

/-- `41_flash.md` R113: FLASH_COMPLETE, and where it is selected: an access at or after the deadline of an operation is the
same access after FLASH_COMPLETE. -/
def Obligations.FlashCompleteReturnsToIdle : Prop :=
  ∀ (o : Offset) (d : Byte) (s : State), ∃ t, exec .flashComplete s = .next t ∧ t.active = false ∧ t.seq = 0x00 ∧
    t.tmask = s.tmask ∧ t.deadline = s.deadline ∧ SamePaging s t ∧ SameRam s t ∧ SameRom s t ∧ SameAudio s t ∧
    SameTime s t ∧ Silent s t ∧
    (s.active = true → s.deadline ≤ s.now →
      exec (.flashRead o) s = exec (.flashRead o) t ∧ exec (.flashWrite o d) s = exec (.flashWrite o d) t)

/-- `41_flash.md` R114, R115, R118, R119: which writes the four unlock operations take, the code each leaves, and that they
change nothing else. -/
def Obligations.UnlockWritesAdvanceTheCode : Prop :=
  ∀ (o : Offset) (s : State),
    (o &&& Config.params.cmdAddrMask = 0x05555 &&& Config.params.cmdAddrMask →
      decodeFlash (flashWordOf 0x00 o 0xAA) = .flashUnlock1 o ∧
      decodeFlash (flashWordOf 0x80 o 0xAA) = .flashEraseUnlock1 o) ∧
    (o &&& Config.params.cmdAddrMask = 0x02AAA &&& Config.params.cmdAddrMask →
      decodeFlash (flashWordOf 0x01 o 0x55) = .flashUnlock2 o ∧
      decodeFlash (flashWordOf 0x81 o 0x55) = .flashEraseUnlock2 o) ∧
    ∀ i code, (i, code) ∈ [(Instr.flashUnlock1 o, (0x01 : Byte)), (.flashUnlock2 o, 0x02), (.flashEraseUnlock1 o, 0x81),
        (.flashEraseUnlock2 o, 0x82)] →
      ∃ t, exec i s = .next t ∧ t.seq = code ∧ t.active = s.active ∧ t.deadline = s.deadline ∧ t.tmask = s.tmask ∧
        SamePaging s t ∧ SameRam s t ∧ SameRom s t ∧ SameAudio s t ∧ SameTime s t ∧ Silent s t

/-- `41_flash.md` R116: in state 2 a byte at the command address with a high nibble that is not zero is stored in `seq`, and
nothing else changes. -/
def Obligations.CommandByteIsStored : Prop :=
  ∀ (o : Offset) (d : Byte) (s : State),
    (o &&& Config.params.cmdAddrMask = 0x05555 &&& Config.params.cmdAddrMask → 16 ≤ d.toNat →
      decodeFlash (flashWordOf 0x02 o d) = .flashCmd o d) ∧
    ∃ t, exec (.flashCmd o d) s = .next t ∧ t.seq = d ∧ t.active = s.active ∧ t.deadline = s.deadline ∧
      t.tmask = s.tmask ∧ SamePaging s t ∧ SameRam s t ∧ SameRom s t ∧ SameAudio s t ∧ SameTime s t ∧ Silent s t

/-- `41_flash.md` R117: any write in state 0xA0 programs its byte as given and starts an operation. -/
def Obligations.ProgramStoresTheByteAndStarts : Prop :=
  ∀ (o : Offset) (d : Byte) (s : State), decodeFlash (flashWordOf 0xA0 o d) = .flashProgram o d ∧
    ∃ t, exec (.flashProgram o d) s = .next t ∧ t.romByte Config.params o.toNat = d ∧
      (∀ k, k ≠ o.toNat → t.romByte Config.params k = s.romByte Config.params k) ∧
      t.active = true ∧ t.deadline = s.now + Config.params.tByteProgramPs ∧ t.seq = 0x03 ∧ t.tmask = s.tmask ∧
      SamePaging s t ∧ SameRam s t ∧ SameAudio s t ∧ SameTime s t ∧ Silent s t

/-- `41_flash.md` R120: 0x10 at the first command address in state 0x82 makes every ROM byte 0xFF and starts an operation. -/
def Obligations.ChipEraseFillsAllOfRom : Prop :=
  ∀ (o : Offset) (s : State),
    (o &&& Config.params.cmdAddrMask = 0x05555 &&& Config.params.cmdAddrMask →
      decodeFlash (flashWordOf 0x82 o 0x10) = .flashChipErase o) ∧
    ∃ t, exec (.flashChipErase o) s = .next t ∧
      (∀ k, k < Config.params.romSize → t.romByte Config.params k = 0xFF) ∧
      t.active = true ∧ t.deadline = s.now + Config.params.tChipErasePs ∧ t.seq = 0x03 ∧ t.tmask = s.tmask ∧
      SamePaging s t ∧ SameRam s t ∧ SameAudio s t ∧ SameTime s t ∧ Silent s t

/-- `41_flash.md` R121: 0x30 at any offset in state 0x82 makes the 4096 bytes of its aligned sector 0xFF, leaves every other
ROM byte, and starts an operation. -/
def Obligations.SectorEraseFillsExactlyItsSector : Prop :=
  ∀ (o : Offset) (s : State), decodeFlash (flashWordOf 0x82 o 0x30) = .flashSectorErase o ∧
    ∃ t, exec (.flashSectorErase o) s = .next t ∧
      (∀ k, k / 4096 = o.toNat / 4096 → t.romByte Config.params k = 0xFF) ∧
      (∀ k, k / 4096 ≠ o.toNat / 4096 → t.romByte Config.params k = s.romByte Config.params k) ∧
      t.active = true ∧ t.deadline = s.now + Config.params.tSectorErasePs ∧ t.seq = 0x03 ∧ t.tmask = s.tmask ∧
      SamePaging s t ∧ SameRam s t ∧ SameAudio s t ∧ SameTime s t ∧ Silent s t

/-- `41_flash.md` R122: every write no other row takes, and a command byte with a zero high nibble, returns the code to 0
and changes nothing else. -/
def Obligations.UnexpectedWritesResetTheCode : Prop :=
  ∀ (o : Offset) (code d : Byte) (lo : BitVec 4) (s : State),
    (fallsToReset Config.params.cmdAddrMask code o d = true →
      decodeFlash (flashWordOf code o d) = .flashReset code o d) ∧
    (o &&& Config.params.cmdAddrMask = 0x05555 &&& Config.params.cmdAddrMask →
      decodeFlash (flashWordOf 0x02 o (lo.setWidth 8)) = .flashResetCommand o lo) ∧
    ∀ i, i ∈ [Instr.flashReset code o d, .flashResetCommand o lo] →
      ∃ t, exec i s = .next t ∧ t.seq = 0x00 ∧ t.active = s.active ∧ t.deadline = s.deadline ∧ t.tmask = s.tmask ∧
        SamePaging s t ∧ SameRam s t ∧ SameRom s t ∧ SameAudio s t ∧ SameTime s t ∧ Silent s t

/-- `41_flash.md` R123 (decision D10): FLASH_BUSY_IGNORE changes nothing, and it is what a write does in state 3 before the
deadline. -/
def Obligations.WritesWhileBusyAreIgnored : Prop :=
  ∀ (o : Offset) (d : Byte) (s : State),
    (∃ t, exec (.flashBusyIgnore o d) s = .next t ∧ SameBlock s t ∧ Silent s t) ∧
    (s.seq = 0x03 → s.now < s.deadline → exec (.flashWrite o d) s = exec (.flashBusyIgnore o d) s)

/-- `41_flash.md` R124, R112: the transition table of the sequencer, complete for writes: the code after every write into ROM
space by the code before it, what each row does to ROM and the deadline, and that nothing else changes. -/
def Obligations.TransitionTableOfTheSequencer : Prop :=
  ∀ (o : Offset) (d : Byte) (s : State), FlashOk s → ∃ (t : State) (before : Byte) (a5 a2 : Prop),
    (a5 ↔ o &&& Config.params.cmdAddrMask = 0x05555 &&& Config.params.cmdAddrMask) ∧
    (a2 ↔ o &&& Config.params.cmdAddrMask = 0x02AAA &&& Config.params.cmdAddrMask) ∧
    exec (.flashWrite o d) s = .next t ∧
    (s.seq = 0x03 → s.deadline ≤ s.now → before = 0x00) ∧
    ((s.seq = 0x03 → s.now < s.deadline) → before = s.seq) ∧
    (before = 0x00 → (a5 ∧ d = 0xAA → t.seq = 0x01) ∧ (¬(a5 ∧ d = 0xAA) → t.seq = 0x00)) ∧
    (before = 0x01 → (a2 ∧ d = 0x55 → t.seq = 0x02) ∧ (¬(a2 ∧ d = 0x55) → t.seq = 0x00)) ∧
    (before = 0x02 → (a5 ∧ 16 ≤ d.toNat → t.seq = d) ∧ (¬(a5 ∧ 16 ≤ d.toNat) → t.seq = 0x00)) ∧
    (before = 0xA0 → t.seq = 0x03 ∧ t.romByte Config.params o.toNat = d ∧
      (∀ k, k ≠ o.toNat → t.romByte Config.params k = s.romByte Config.params k) ∧
      t.deadline = s.now + Config.params.tByteProgramPs) ∧
    (before = 0x80 → (a5 ∧ d = 0xAA → t.seq = 0x81) ∧ (¬(a5 ∧ d = 0xAA) → t.seq = 0x00)) ∧
    (before = 0x81 → (a2 ∧ d = 0x55 → t.seq = 0x82) ∧ (¬(a2 ∧ d = 0x55) → t.seq = 0x00)) ∧
    (before = 0x82 →
      (a5 ∧ d = 0x10 → t.seq = 0x03 ∧ (∀ k, k < Config.params.romSize → t.romByte Config.params k = 0xFF) ∧
        t.deadline = s.now + Config.params.tChipErasePs) ∧
      (d = 0x30 → t.seq = 0x03 ∧ (∀ k, k / 4096 = o.toNat / 4096 → t.romByte Config.params k = 0xFF) ∧
        (∀ k, k / 4096 ≠ o.toNat / 4096 → t.romByte Config.params k = s.romByte Config.params k) ∧
        t.deadline = s.now + Config.params.tSectorErasePs) ∧
      (¬(a5 ∧ d = 0x10) → d ≠ 0x30 → t.seq = 0x00 ∧ SameRom s t ∧ t.deadline = s.deadline)) ∧
    (before = 0x03 → t.seq = 0x03) ∧
    (before ∉ [(0x00 : Byte), 0x01, 0x02, 0xA0, 0x80, 0x81, 0x82, 0x03] → t.seq = 0x00) ∧
    (before ≠ 0xA0 → before ≠ 0x82 → SameRom s t ∧ t.deadline = s.deadline) ∧
    (t.active = true ↔ t.seq = 0x03) ∧ t.tmask = s.tmask ∧
    SamePaging s t ∧ SameRam s t ∧ SameAudio s t ∧ SameTime s t ∧ Silent s t

/-- `30_encoding.md` R88: the write sequences of the byte-program, the two erases and an unknown command, from idle. -/
def Obligations.CommandSequencesDoWhatTheyName : Prop :=
  ∀ (a5 a2 x : Offset) (d c : Byte) (s : State),
    a5 &&& Config.params.cmdAddrMask = 0x05555 &&& Config.params.cmdAddrMask →
    a2 &&& Config.params.cmdAddrMask = 0x02AAA &&& Config.params.cmdAddrMask →
    s.seq = 0x00 → s.active = false →
    (∃ t, execAll [.flashWrite a5 0xAA, .flashWrite a2 0x55, .flashWrite a5 0xA0, .flashWrite x d] s = .next t ∧
      t.romByte Config.params x.toNat = d ∧
      (∀ k, k ≠ x.toNat → t.romByte Config.params k = s.romByte Config.params k) ∧
      t.active = true ∧ t.deadline = s.now + Config.params.tByteProgramPs ∧ t.seq = 0x03) ∧
    (∃ t, execAll [.flashWrite a5 0xAA, .flashWrite a2 0x55, .flashWrite a5 0x80, .flashWrite a5 0xAA,
        .flashWrite a2 0x55, .flashWrite x 0x30] s = .next t ∧
      (∀ k, k / 4096 = x.toNat / 4096 → t.romByte Config.params k = 0xFF) ∧
      (∀ k, k / 4096 ≠ x.toNat / 4096 → t.romByte Config.params k = s.romByte Config.params k) ∧
      t.active = true ∧ t.deadline = s.now + Config.params.tSectorErasePs ∧ t.seq = 0x03) ∧
    (∃ t, execAll [.flashWrite a5 0xAA, .flashWrite a2 0x55, .flashWrite a5 0x80, .flashWrite a5 0xAA,
        .flashWrite a2 0x55, .flashWrite a5 0x10] s = .next t ∧
      (∀ k, k < Config.params.romSize → t.romByte Config.params k = 0xFF) ∧
      t.active = true ∧ t.deadline = s.now + Config.params.tChipErasePs ∧ t.seq = 0x03) ∧
    (16 ≤ c.toNat → c ≠ 0xA0 → c ≠ 0x80 → c ≠ 0x81 → c ≠ 0x82 →
      ∃ t u, execAll [.flashWrite a5 0xAA, .flashWrite a2 0x55, .flashWrite a5 c] s = .next t ∧ t.seq = c ∧
        SameRom s t ∧ exec (.flashWrite x d) t = .next u ∧ u.seq = 0x00 ∧ SameRom s u)

/-- `41_flash.md` R132: with paging off and the sequencer idle, a write either changes no state of the block or, only where
bit 14 of `CMD_ADDR_MASK` is clear, is the first unlock write; no ROM byte changes. -/
def Obligations.BootMappingIsWriteSafe : Prop :=
  ∀ (a : Addr) (d : Byte) (s : State), s.pe = false → s.seq = 0x00 → s.active = false →
    ∃ t, exec (.memWrite a d) s = .next t ∧ Silent s t ∧ SameRom s t ∧
      (SameBlock s t ∨ (Config.params.cmdAddrMask.getLsbD 14 = false ∧ d = 0xAA ∧ t.seq = 0x01))

/-! ### The audio sampler -/

/-- `42_audio.md` R144: AUDIO_PUSH appends if there is room and else changes nothing. -/
def Obligations.PushStoresOrDrops : Prop :=
  ∀ (x : Sample) (s : State), ∃ t, exec (.audioPush x) s = .next t ∧
    (s.avail < Config.params.audioCap →
      t.buf = s.buf.set s.wr x ∧ t.wr = (s.wr + 1) % Config.params.audioCap ∧ t.avail = s.avail + 1 ∧ t.rd = s.rd) ∧
    (Config.params.audioCap ≤ s.avail → SameRing s t) ∧
    SameAudioRegs s t ∧ SamePaging s t ∧ SameRam s t ∧ SameRom s t ∧ SameFlashRegs s t ∧ SameTime s t ∧ Silent s t

/-- `42_audio.md` R146, R147, R152: AUDIO_POP delivers the oldest sample, or the last one again; a capture sink gets it. -/
def Obligations.PopDeliversTheOldestOrRepeats : Prop :=
  ∀ s : State, RingOk s → ∃ t x, exec .audioPop s = .next t ∧ Answers s t [.samples [x]] ∧
    (0 < s.avail →
      s.buf[s.rd]? = some x ∧ t.rd = (s.rd + 1) % Config.params.audioCap ∧ t.avail = s.avail - 1 ∧ t.last = x) ∧
    (s.avail = 0 → x = s.last ∧ t.rd = s.rd ∧ t.avail = 0 ∧ t.last = s.last) ∧
    (s.captureOn = true → t.capture = s.capture ++ [x]) ∧ (s.captureOn = false → t.capture = s.capture) ∧
    t.buf = s.buf ∧ t.wr = s.wr ∧ t.nextSample = s.nextSample ∧ t.volume = s.volume ∧ t.captureOn = s.captureOn ∧
    SamePaging s t ∧ SameRam s t ∧ SameRom s t ∧ SameFlashRegs s t ∧ SameTime s t

/-- `10_state.md` R28, `42_audio.md` R149, R154: push and pop keep the ring invariant and act on the undelivered samples as a
bounded first-in first-out queue. -/
def Obligations.RingBufferIsABoundedQueue : Prop :=
  ∀ (x : Sample) (s : State), RingOk s →
    (∃ t, exec (.audioPush x) s = .next t ∧ RingOk t ∧
      t.undelivered = (if s.undelivered.length < Config.params.audioCap then s.undelivered ++ [x] else s.undelivered)) ∧
    (∃ t, exec .audioPop s = .next t ∧ RingOk t ∧ t.undelivered = s.undelivered.tail ∧
      t.last = s.undelivered.headD s.last)

/-- `42_audio.md` R148, R152: AUDIO_CALLBACK with no push in between delivers exactly `n` samples: the oldest undelivered
ones in order, then the last one again and again; a capture sink gets all of them. -/
def Obligations.CallbackDeliversInOrderThenRepeats : Prop :=
  ∀ (n : Nat) (s : State), RingOk s → ∃ t xs, exec (.audioCallback n) s = .next t ∧ Answers s t [.samples xs] ∧
    xs = s.undelivered.take n ++ List.replicate (n - s.avail) (s.undelivered.getLastD s.last) ∧ xs.length = n ∧
    RingOk t ∧ t.undelivered = s.undelivered.drop n ∧ t.last = xs.getLastD s.last ∧
    (s.captureOn = true → t.capture = s.capture ++ xs) ∧ (s.captureOn = false → t.capture = s.capture) ∧
    t.buf = s.buf ∧ t.wr = s.wr ∧ t.nextSample = s.nextSample ∧ t.volume = s.volume ∧ t.captureOn = s.captureOn ∧
    SamePaging s t ∧ SameRam s t ∧ SameRom s t ∧ SameFlashRegs s t ∧ SameTime s t

/-- `42_audio.md` R142, R143 (decisions D18 to D20): AUDIO_SAMPLE does nothing before the next sample is due; then it pushes
the level of the sampled bit and the schedule advances by one period whether or not the sample was dropped. -/
def Obligations.SampleIsTakenWhenDue : Prop :=
  ∀ s : State, ∃ t u, exec .audioSample s = .next t ∧
    exec (.audioPush (Config.params.level (s.mcr.getLsbD Config.params.audioMcrBit.toNat) s.volume)) s = .next u ∧
    (s.now < s.nextSample → SameBlock s t ∧ Silent s t) ∧
    (s.nextSample ≤ s.now →
      SameRing u t ∧ t.nextSample = s.nextSample + Config.params.samplePeriodPs ∧
      t.last = s.last ∧ t.volume = s.volume ∧ t.captureOn = s.captureOn ∧ t.capture = s.capture ∧
      SamePaging s t ∧ SameRam s t ∧ SameRom s t ∧ SameFlashRegs s t ∧ SameTime s t ∧ Silent s t)

/-- `42_audio.md` R153, `60_exceptions.md` R173, R179 (decisions D17, D20, D22): the host's setters write their one element
and nothing else. -/
def Obligations.HostSettersWriteOneElement : Prop :=
  ∀ (v : Nat) (b : Bool) (s : State),
    (∃ t, exec (.audioSetVolume v) s = .next t ∧ t.volume = v ∧ t.captureOn = s.captureOn ∧ t.pe = s.pe ∧
      t.capture = s.capture ∧ t.last = s.last ∧ t.nextSample = s.nextSample ∧ SameRing s t ∧ t.pr = s.pr ∧
      SameRam s t ∧ SameRom s t ∧ SameFlashRegs s t ∧ SameTime s t ∧ Silent s t) ∧
    (∃ t, exec (.hostCapture b) s = .next t ∧ t.captureOn = b ∧ t.volume = s.volume ∧ t.pe = s.pe ∧
      t.capture = s.capture ∧ t.last = s.last ∧ t.nextSample = s.nextSample ∧ SameRing s t ∧ t.pr = s.pr ∧
      SameRam s t ∧ SameRom s t ∧ SameFlashRegs s t ∧ SameTime s t ∧ Silent s t) ∧
    (∃ t, exec (.hostSetPe b) s = .next t ∧ t.pe = b ∧ t.pr = s.pr ∧ SameAudio s t ∧
      SameRam s t ∧ SameRom s t ∧ SameFlashRegs s t ∧ SameTime s t ∧ Silent s t)

/-! ### The host -/

/-- `60_exceptions.md` R173 (decision D17): HOST_SET_PAGE loads one page register and nothing else, the effect of
OUT_PAGE_SELECT. -/
def Obligations.HostSetPageLoadsOneRegister : Prop :=
  ∀ (j : BitVec 2) (v : Byte) (x : BitVec 1) (s : State), ∃ t, exec (.hostSetPage j v) s = .next t ∧
    exec (.outPageSelect x j v) s = .next t ∧ t.page j = v ∧ (∀ k, k ≠ j → t.page k = s.page k) ∧ t.pe = s.pe ∧
    SameRam s t ∧ SameRom s t ∧ SameFlashRegs s t ∧ SameAudio s t ∧ SameTime s t ∧ Silent s t

/-- `60_exceptions.md` R174 (decision D17): HOST_MEM_WRITE goes by its own page byte: a RAM byte is stored, a VIDEO byte
handed over or dropped, a ROM byte goes through the sequencer. -/
def Obligations.HostWriteGoesByItsPageByte : Prop :=
  ∀ (p : Byte) (a : Addr) (d : Byte) (s : State), ∃ t off, exec (.hostMemWrite p a d) s = .next t ∧
    off = pagedOffset p a ∧ off.toNat = p.toNat % 32 * 0x4000 + a.toNat % 0x4000 ∧
    (p.toNat / 32 = 1 → t.ramByte Config.params off.toNat = d ∧
      (∀ k, k ≠ off.toNat → t.ramByte Config.params k = s.ramByte Config.params k) ∧ SamePaging s t ∧ SameRom s t ∧
      SameFlashRegs s t ∧ SameAudio s t ∧ SameTime s t ∧ Silent s t) ∧
    (p.toNat / 32 = 2 → SameBlock s t ∧ (Config.params.videoPresent = false → Silent s t) ∧
      (Config.params.videoPresent = true → Answers s t [.videoWrite a off d s.now])) ∧
    (p.toNat / 32 ≠ 1 → p.toNat / 32 ≠ 2 → exec (.flashWrite off d) s = .next t)

/-- `60_exceptions.md` R175 (decision D17; for VIDEO log 20): HOST_MEM_READ returns the raw byte, without the read mask, and
changes no state of the block. -/
def Obligations.HostReadIsRaw : Prop :=
  ∀ (p : Byte) (a : Addr) (s : State), ∃ t off, exec (.hostMemRead p a) s = .next t ∧ SameBlock s t ∧
    off = p.toNat % 32 * 0x4000 + a.toNat % 0x4000 ∧
    (p.toNat / 32 = 1 → Answers s t [.byte (s.ramByte Config.params off)]) ∧
    (p.toNat / 32 = 2 →
      t.out = s.out ++ [.byte (Config.params.freeByte s.draws)] ∧ t.draws = s.draws + 1) ∧
    (p.toNat / 32 ≠ 1 → p.toNat / 32 ≠ 2 → Answers s t [.byte (s.romByte Config.params off)])

/-! ### The machine as a whole -/

/-- `60_exceptions.md` R160: the block raises no exception: every operation answers a next state in every state, and no step
faults. -/
def Obligations.EveryOperationCompletes : Prop :=
  (∀ (i : Instr) (s : State), ∃ t, exec i s = .next t) ∧ ∀ (s : State) (f : Fault), step s ≠ .fault f

/-- `60_exceptions.md` R162, `00_scope.md` R7 (decisions D4, D14, D24): no configuration the spec gives no meaning to is a
configuration of the model (log 2). -/
def Obligations.ParametersMeetTheirConstraints : Prop :=
  ∀ P : Params, 0x80000 ≤ P.romSize ∧ 0x80000 ≤ P.ramSize ∧ 0 < P.clockCyclePs ∧ P.clockCyclePs ≤ P.samplePeriodPs ∧
    0 < P.audioCap ∧ P.audioMcrBit.toNat ≤ 7 ∧ 2 ≤ P.sampleBits ∧
    P.keyboardNibble ≠ P.pagingPortNibble ∧ P.uartNibble ≠ P.pagingPortNibble

/-- `10_state.md` R33, `70_reset_and_hazards.md` R191 (decision D16): the values the spec gives for reset. -/
def Obligations.ResetLeavesTheSpecsValues : Prop :=
  State.reset.now = 0 ∧ State.reset.pe = false ∧ State.reset.seq = 0x00 ∧ State.reset.active = false ∧
  State.reset.tmask = Config.params.toggleMaskReset ∧ State.reset.rd = 0 ∧ State.reset.wr = 0 ∧
  State.reset.avail = 0 ∧ State.reset.last = Config.params.lastSampleReset ∧
  State.reset.nextSample = Config.params.samplePeriodPs ∧ State.reset.volume = Config.params.volumeReset ∧
  State.reset.captureOn = false ∧ State.reset.capture = [] ∧
  ∀ k, k < Config.params.romSize → State.reset.romByte Config.params k = Config.params.romImage k

/-- The invariant holds at reset: the reset values are those of `10_state.md` R33 (decision D16; log 4), the invariant's parts
are R20, R23, R24 and R28, and the canonical form of the memories is the model's choice (log 10). -/
def Obligations.ResetMeetsTheInvariant : Prop := MachineOk State.reset

/-- `10_state.md` R20, R23, R24, R28, `42_audio.md` R142, R154: every step keeps the invariant: the sequencer's registers
agree, both memories stay in canonical form, the ring is consistent, samples fit their width, and the next sample is due
at the first multiple of the period after `now`. -/
def Obligations.EveryStepKeepsTheInvariant : Prop :=
  ∀ s t : State, MachineOk s → step s = .next t → MachineOk t

/-- `70_reset_and_hazards.md` R206, `20_memory.md` R46 (log 1, 7, 11, 21): a step takes the oldest input, and what it decodes
to is run: a bus request inside a tick, a flash write word formed with the sequencer's code after the completion check,
any other operation by itself; the UART's byte is noted; what does not decode is refused; with no input waiting the engine
ticks without a request. -/
def Obligations.StepRunsTheDecodedInput : Prop :=
  ∀ (s : State) (x : Input) (rest : List Input) (i : Instr) (code b : Byte),
    (s.inputs = [] → step s = exec (.idleTick 1) { s with out := [] }) ∧
    (s.inputs = x :: rest → decode x = none → step s = .refused (.unusedEventWord x)) ∧
    (s.inputs = x :: rest → decode x = some (.uart b) → step s = .next { s with inputs := rest, out := [], mcr := b }) ∧
    (s.inputs = x :: rest → decode x = some (.flash code i) → ∃ u,
      u = (if s.active = true ∧ s.deadline ≤ s.now then { s with inputs := rest, out := [], active := false, seq := 0x00 }
        else { s with inputs := rest, out := [] }) ∧
        (u.seq = code → step s = exec i u) ∧ (u.seq ≠ code → step s = .refused (.flashWordNotFormed code))) ∧
    (s.inputs = x :: rest → decode x = some (.act i) → step s = exec i { s with inputs := rest, out := [] }) ∧
    (s.inputs = x :: rest → decode x = some (.bus [i]) → ∃ t u,
      exec i { s with inputs := rest, out := [], now := s.now + Config.params.clockCyclePs } = .next t ∧
      exec .audioSample t = .next u ∧ step s = .next u)

/-- `20_memory.md` R46, R47, `60_exceptions.md` R165, `40_paging.md` R109 (decisions D2, D3, D18): what a request record makes
a tick do, for every combination of its two lines: time advances; the memory request is serviced if `mreq` is up; then the
I/O request if `iorq` is up; the audio sample comes last. A record with neither line up is one idle tick. -/
def Obligations.TickServicesTheLinesThatAreUp : Prop :=
  ∀ (s : State) (r : BusRequest) (rest : List Input), s.inputs = .request r :: rest → ∃ begun t u v,
    begun = { s with inputs := rest, out := [], now := s.now + Config.params.clockCyclePs } ∧
    (r.mreq = true → r.wr = true → exec (.memWrite r.addr r.data) begun = .next t) ∧
    (r.mreq = true → r.wr = false → exec (.memRead r.addr) begun = .next t) ∧
    (r.mreq = false → t = begun) ∧
    (r.iorq = true → r.wr = true →
      exec (decodePort Config.params.pagingPortNibble true (r.addr.extractLsb' 0 8) r.data) t = .next u) ∧
    (r.iorq = true → r.wr = false →
      exec (decodePort Config.params.pagingPortNibble false (r.addr.extractLsb' 0 8) 0) t = .next u) ∧
    (r.iorq = false → u = t) ∧
    exec .audioSample u = .next v ∧ step s = .next v ∧
    (r.mreq = false → r.iorq = false → step s = exec (.idleTick 1) { s with inputs := rest, out := [] })

/-- `30_encoding.md` R93 (log 21): an event word of a kind from 6 on is refused by name. -/
def Obligations.UnusedEventKindsAreRefused : Prop :=
  ∀ (s : State) (w : BitVec 32) (rest : List Input), s.inputs = .event w :: rest → 6 ≤ w.toNat / 2 ^ 28 →
    step s = .refused (.unusedEventWord (.event w))

/-- `10_state.md` R13: no step makes time go back. -/
def Obligations.TimeNeverDecreases : Prop := ∀ s t : State, step s = .next t → s.now ≤ t.now

/-- `10_state.md` R17: only a write to a paging port and the host's edit of a page register or of `PE` change the paging
state. -/
def Obligations.OnlyPagingWritesChangePaging : Prop :=
  ∀ s t : State, step s = .next t → ¬ SamePaging s t →
    ∃ x rest, s.inputs = x :: rest ∧
      ((∃ ops i, decode x = some (.bus ops) ∧ i ∈ ops ∧
          ((∃ b r d, i = .outPageSelect b r d) ∨ (∃ b y d, i = .outPagingEnable b y d))) ∨
        (∃ j v, x = .setPage j v) ∨ (∃ b, x = .setPe b))

/-- `41_flash.md` R127: a step changes a ROM byte only from state 0xA0 or 0x82, and then an operation is in progress. -/
def Obligations.OnlyArmedCommandsChangeRom : Prop :=
  ∀ s t : State, step s = .next t → ¬ SameRom s t →
    (s.seq = 0xA0 ∨ s.seq = 0x82) ∧ t.active = true ∧ t.seq = 0x03

/-- `41_flash.md` R128: while an operation is in progress and no step has ended it, its deadline stays. -/
def Obligations.DeadlineStaysDuringAnOperation : Prop :=
  ∀ s t : State, FlashOk s → s.active = true → step s = .next t → t.active = true → t.deadline = s.deadline
end

