-- ==== Sys2Proof/Laws/Memory.lean ====
section
/-! SUPPORT. Memory: a read after a write gives the value written, a write leaves every other byte alone, and every
memory operation keeps the canonical form. The read laws hold for every list, canonical or not. -/

namespace Sys2Proof.Machine

variable {u : Nat → Byte} {m m' : Memory} {a b lo n : Nat} {v : Byte}

@[simp] theorem Memory.read_nil : Memory.read u [] a = u a := rfl

theorem Memory.read_of_absent (h : ∀ c ∈ m, c.1 ≠ a) : Memory.read u m a = u a := by
  induction m with
  | nil => rfl
  | cons c m ih =>
    have hc := h c (by simp)
    simp only [Memory.read, if_neg (Ne.symm hc)]
    exact ih (fun d hd => h d (by simp [hd]))

theorem Memory.read_append_left (h : ∀ c ∈ m', c.1 ≠ a) : Memory.read u (m ++ m') a = Memory.read u m a := by
  induction m with
  | nil => simpa using Memory.read_of_absent h
  | cons c m ih => simp only [List.cons_append, Memory.read, ih]

theorem Memory.read_append_right (h : ∀ c ∈ m, c.1 ≠ a) : Memory.read u (m ++ m') a = Memory.read u m' a := by
  induction m with
  | nil => rfl
  | cons c m ih =>
    have hc := h c (by simp)
    simp only [List.cons_append, Memory.read, if_neg (Ne.symm hc)]
    exact ih (fun d hd => h d (by simp [hd]))

theorem Memory.read_filter (p : Nat → Bool) (h : p a = true) :
    Memory.read u (m.filter (fun c => p c.1)) a = Memory.read u m a := by
  induction m with
  | nil => rfl
  | cons c m ih =>
    by_cases hc : p c.1 = true
    · simp only [List.filter_cons, hc, if_true, Memory.read, ih]
    · have : a ≠ c.1 := fun e => hc (e ▸ h)
      simp only [List.filter_cons, hc, Memory.read, if_neg this]
      simpa using ih

theorem Memory.read_insert :
    Memory.read u (Memory.insert a v m) b = if b = a then v else Memory.read u m b := by
  induction m with
  | nil => by_cases h : b = a <;> simp [Memory.insert, Memory.read, h]
  | cons c m ih =>
    by_cases h1 : a < c.1
    · by_cases h3 : b = a <;> simp [Memory.insert, Memory.read, h1, h3]
    · by_cases h2 : a = c.1
      · by_cases h3 : b = c.1 <;> simp [Memory.insert, Memory.read, h2, h3]
      · by_cases h3 : b = a
        · subst h3
          simpa [Memory.insert, Memory.read, h1, h2] using ih
        · simp [Memory.insert, Memory.read, h1, h2, h3, ih]

/-- A read after a write. -/
theorem Memory.read_write :
    Memory.read u (Memory.write u m a v) b = if b = a then v else Memory.read u m b := by
  unfold Memory.write
  by_cases hv : v = u a
  · rw [if_pos hv]
    by_cases hb : b = a
    · subst hb
      rw [if_pos rfl, hv]
      exact Memory.read_of_absent (by simp)
    · rw [if_neg hb]
      exact Memory.read_filter (fun k => decide (k ≠ a)) (by simpa using hb)
  · rw [if_neg hv, Memory.read_insert]

theorem Memory.mem_run {c : Host.Cell} (h : c ∈ Memory.run u v lo n) : lo ≤ c.1 ∧ c.1 < lo + n ∧ c.2 = v ∧ c.2 ≠ u c.1 := by
  induction n generalizing lo with
  | zero => simp [Memory.run] at h
  | succ n ih =>
    unfold Memory.run at h
    split_ifs at h with hv
    · obtain ⟨h1, h2, h3⟩ := ih h
      exact ⟨by omega, by omega, h3⟩
    · rcases List.mem_cons.mp h with rfl | h
      · exact ⟨le_refl _, by simp, rfl, hv⟩
      · obtain ⟨h1, h2, h3⟩ := ih h
        exact ⟨by omega, by omega, h3⟩

theorem Memory.read_run (h : lo ≤ a ∧ a < lo + n) : Memory.read u (Memory.run u v lo n) a = v := by
  induction n generalizing lo with
  | zero => omega
  | succ n ih =>
    unfold Memory.run
    split_ifs with hv
    · by_cases ha : a = lo
      · rw [Memory.read_of_absent, ha, hv]
        intro c hc
        have := Memory.mem_run hc
        omega
      · exact ih (by omega)
    · by_cases ha : a = lo
      · simp [Memory.read, ha]
      · simp only [Memory.read, if_neg ha]
        exact ih (by omega)

/-- A read after a fill. -/
theorem Memory.read_fill :
    Memory.read u (Memory.fill u m lo n v) b = if lo ≤ b ∧ b < lo + n then v else Memory.read u m b := by
  have low : ∀ c ∈ m.filter (fun c => decide (c.1 < lo)), c.1 < lo := fun c hc => by simpa using (List.mem_filter.mp hc).2
  have high : ∀ c ∈ m.filter (fun c => decide (lo + n ≤ c.1)), lo + n ≤ c.1 :=
    fun c hc => by simpa using (List.mem_filter.mp hc).2
  unfold Memory.fill
  by_cases h : lo ≤ b ∧ b < lo + n
  · rw [if_pos h, Memory.read_append_right (fun c hc => by have := low c hc; omega),
      Memory.read_append_left (fun c hc => by have := high c hc; omega), Memory.read_run h]
  · rw [if_neg h]
    by_cases hb : b < lo
    · rw [Memory.read_append_left, Memory.read_filter (fun k => decide (k < lo)) (by simpa using hb)]
      intro c hc
      rcases List.mem_append.mp hc with hc | hc
      · have := Memory.mem_run hc; omega
      · have := high c hc; omega
    · rw [Memory.read_append_right (fun c hc => by have := low c hc; omega),
        Memory.read_append_right (fun c hc => by have := Memory.mem_run hc; omega),
        Memory.read_filter (fun k => decide (lo + n ≤ k)) (by simp; omega)]

/-! ### The canonical form -/

theorem Memory.rising_iff : Memory.rising m = true ↔ m.Pairwise (fun c d => c.1 < d.1) := by
  induction m with
  | nil => simp [Memory.rising]
  | cons c m ih =>
    cases m with
    | nil => simp [Memory.rising]
    | cons d m =>
      simp only [Memory.rising, Bool.and_eq_true, decide_eq_true_eq, ih, List.pairwise_cons]
      constructor
      · rintro ⟨h, hd, hm⟩
        refine ⟨fun e he => ?_, hd, hm⟩
        rcases List.mem_cons.mp he with rfl | he
        · exact h
        · exact lt_trans h (hd e he)
      · rintro ⟨h, hd, hm⟩
        exact ⟨h d (by simp), hd, hm⟩

/-- The canonical form, said of the entries. -/
theorem Memory.wf_iff : Memory.wf u m = true ↔ m.Pairwise (fun c d => c.1 < d.1) ∧ ∀ c ∈ m, c.2 ≠ u c.1 := by
  simp [Memory.wf, Memory.rising_iff]

@[simp] theorem Memory.wf_nil : Memory.wf u [] = true := rfl

theorem Memory.mem_insert {c : Host.Cell} (h : c ∈ Memory.insert a v m) : c = (a, v) ∨ c ∈ m := by
  induction m with
  | nil => simpa [Memory.insert] using h
  | cons d m ih =>
    unfold Memory.insert at h
    split_ifs at h with h1 h2
    · simpa using h
    · rcases List.mem_cons.mp h with h | h <;> simp [h]
    · rcases List.mem_cons.mp h with h | h
      · simp [h]
      · rcases ih h with h | h <;> simp [h]

theorem Memory.insert_pairwise (h : m.Pairwise (fun c d => c.1 < d.1)) :
    (Memory.insert a v m).Pairwise (fun c d => c.1 < d.1) := by
  induction m with
  | nil => simp [Memory.insert]
  | cons c m ih =>
    obtain ⟨hc, hm⟩ := List.pairwise_cons.mp h
    unfold Memory.insert
    split_ifs with h1 h2
    · refine List.pairwise_cons.mpr ⟨fun d hd => ?_, h⟩
      rcases List.mem_cons.mp hd with rfl | hd
      · exact h1
      · exact lt_trans h1 (hc d hd)
    · exact List.pairwise_cons.mpr ⟨fun d hd => by simpa [h2] using hc d hd, hm⟩
    · refine List.pairwise_cons.mpr ⟨fun d hd => ?_, ih hm⟩
      rcases Memory.mem_insert hd with rfl | hd
      · simp; omega
      · exact hc d hd

theorem Memory.mem_write {c : Host.Cell} (h : c ∈ Memory.write u m a v) : c = (a, v) ∨ c ∈ m := by
  unfold Memory.write at h
  split_ifs at h
  · exact .inr (List.mem_filter.mp h).1
  · exact Memory.mem_insert h

/-- A write keeps the canonical form. -/
theorem Memory.wf_write (h : Memory.wf u m = true) : Memory.wf u (Memory.write u m a v) = true := by
  obtain ⟨hp, hu⟩ := Memory.wf_iff.mp h
  refine Memory.wf_iff.mpr ⟨?_, fun c hc => ?_⟩
  · unfold Memory.write
    split_ifs
    · exact hp.filter _
    · exact Memory.insert_pairwise hp
  · unfold Memory.write at hc
    split_ifs at hc with hv
    · exact hu c (List.mem_filter.mp hc).1
    · rcases Memory.mem_insert hc with rfl | hc
      · exact hv
      · exact hu c hc

theorem Memory.run_pairwise : (Memory.run u v lo n).Pairwise (fun c d => c.1 < d.1) := by
  induction n generalizing lo with
  | zero => simp [Memory.run]
  | succ n ih =>
    unfold Memory.run
    split_ifs
    · exact ih
    · refine List.pairwise_cons.mpr ⟨fun d hd => ?_, ih⟩
      have := Memory.mem_run hd
      show lo < d.1
      omega

theorem Memory.mem_fill {c : Host.Cell} (h : c ∈ Memory.fill u m lo n v) :
    c ∈ m ∨ (lo ≤ c.1 ∧ c.1 < lo + n ∧ c.2 ≠ u c.1) := by
  rcases List.mem_append.mp h with h | h
  · exact .inl (List.mem_filter.mp h).1
  · rcases List.mem_append.mp h with h | h
    · have := Memory.mem_run h
      exact .inr ⟨this.1, this.2.1, this.2.2.2⟩
    · exact .inl (List.mem_filter.mp h).1

/-- A fill keeps the canonical form. -/
theorem Memory.wf_fill (h : Memory.wf u m = true) : Memory.wf u (Memory.fill u m lo n v) = true := by
  obtain ⟨hp, hu⟩ := Memory.wf_iff.mp h
  refine Memory.wf_iff.mpr ⟨?_, fun c hc => ?_⟩
  · refine List.pairwise_append.mpr ⟨hp.filter _, List.pairwise_append.mpr ⟨Memory.run_pairwise, hp.filter _, ?_⟩, ?_⟩
    · intro c hc d hd
      have h1 := Memory.mem_run hc
      have h2 : lo + n ≤ d.1 := by simpa using (List.mem_filter.mp hd).2
      omega
    · intro c hc d hd
      have h1 : c.1 < lo := by simpa using (List.mem_filter.mp hc).2
      rcases List.mem_append.mp hd with hd | hd
      · have := Memory.mem_run hd; omega
      · have h2 : lo + n ≤ d.1 := by simpa using (List.mem_filter.mp hd).2
        omega
  · rcases Memory.mem_fill hc with hc | hc
    · exact hu c hc
    · exact hc.2.2

/-- In canonical form, a byte that reads as the unlisted one is not listed: the data says what the memory holds. -/
theorem Memory.mem_of_read_ne (h : Memory.read u m a ≠ u a) : (a, Memory.read u m a) ∈ m := by
  induction m with
  | nil => simp at h
  | cons c m ih =>
    by_cases ha : a = c.1
    · simp [Memory.read, ha]
    · simp only [Memory.read, if_neg ha] at h ⊢
      exact List.mem_cons_of_mem _ (ih h)

end Sys2Proof.Machine
end

