-- ==== Sys2Proof/Laws/State.lean ====
section
/-! SUPPORT. What each named update leaves in each field, one lemma per field per update, and how the bytes of RAM and ROM
read after it. -/

namespace Sys2Proof.Machine

variable (P : Params) (s : State)

/-! ### setPe -/

@[simp] theorem State.setPe_now (b : Bool) : (s.setPe b).now = s.now := rfl
@[simp] theorem State.setPe_pr (b : Bool) : (s.setPe b).pr = s.pr := rfl
@[simp] theorem State.setPe_pe (b : Bool) : (s.setPe b).pe = b := rfl
@[simp] theorem State.setPe_rom (b : Bool) : (s.setPe b).rom = s.rom := rfl
@[simp] theorem State.setPe_romErased (b : Bool) : (s.setPe b).romErased = s.romErased := rfl
@[simp] theorem State.setPe_ram (b : Bool) : (s.setPe b).ram = s.ram := rfl
@[simp] theorem State.setPe_seq (b : Bool) : (s.setPe b).seq = s.seq := rfl
@[simp] theorem State.setPe_active (b : Bool) : (s.setPe b).active = s.active := rfl
@[simp] theorem State.setPe_deadline (b : Bool) : (s.setPe b).deadline = s.deadline := rfl
@[simp] theorem State.setPe_tmask (b : Bool) : (s.setPe b).tmask = s.tmask := rfl
@[simp] theorem State.setPe_buf (b : Bool) : (s.setPe b).buf = s.buf := rfl
@[simp] theorem State.setPe_rd (b : Bool) : (s.setPe b).rd = s.rd := rfl
@[simp] theorem State.setPe_wr (b : Bool) : (s.setPe b).wr = s.wr := rfl
@[simp] theorem State.setPe_avail (b : Bool) : (s.setPe b).avail = s.avail := rfl
@[simp] theorem State.setPe_last (b : Bool) : (s.setPe b).last = s.last := rfl
@[simp] theorem State.setPe_nextSample (b : Bool) : (s.setPe b).nextSample = s.nextSample := rfl
@[simp] theorem State.setPe_volume (b : Bool) : (s.setPe b).volume = s.volume := rfl
@[simp] theorem State.setPe_captureOn (b : Bool) : (s.setPe b).captureOn = s.captureOn := rfl
@[simp] theorem State.setPe_capture (b : Bool) : (s.setPe b).capture = s.capture := rfl
@[simp] theorem State.setPe_mcr (b : Bool) : (s.setPe b).mcr = s.mcr := rfl
@[simp] theorem State.setPe_inputs (b : Bool) : (s.setPe b).inputs = s.inputs := rfl
@[simp] theorem State.setPe_out (b : Bool) : (s.setPe b).out = s.out := rfl
@[simp] theorem State.setPe_draws (b : Bool) : (s.setPe b).draws = s.draws := rfl

/-! ### startOperation -/

@[simp] theorem State.startOperation_now (l : Nat) : (s.startOperation l).now = s.now := rfl
@[simp] theorem State.startOperation_pr (l : Nat) : (s.startOperation l).pr = s.pr := rfl
@[simp] theorem State.startOperation_pe (l : Nat) : (s.startOperation l).pe = s.pe := rfl
@[simp] theorem State.startOperation_rom (l : Nat) : (s.startOperation l).rom = s.rom := rfl
@[simp] theorem State.startOperation_romErased (l : Nat) : (s.startOperation l).romErased = s.romErased := rfl
@[simp] theorem State.startOperation_ram (l : Nat) : (s.startOperation l).ram = s.ram := rfl
@[simp] theorem State.startOperation_seq (l : Nat) : (s.startOperation l).seq = 0x03 := rfl
@[simp] theorem State.startOperation_active (l : Nat) : (s.startOperation l).active = true := rfl
@[simp] theorem State.startOperation_deadline (l : Nat) : (s.startOperation l).deadline = s.now + l := rfl
@[simp] theorem State.startOperation_tmask (l : Nat) : (s.startOperation l).tmask = s.tmask := rfl
@[simp] theorem State.startOperation_buf (l : Nat) : (s.startOperation l).buf = s.buf := rfl
@[simp] theorem State.startOperation_rd (l : Nat) : (s.startOperation l).rd = s.rd := rfl
@[simp] theorem State.startOperation_wr (l : Nat) : (s.startOperation l).wr = s.wr := rfl
@[simp] theorem State.startOperation_avail (l : Nat) : (s.startOperation l).avail = s.avail := rfl
@[simp] theorem State.startOperation_last (l : Nat) : (s.startOperation l).last = s.last := rfl
@[simp] theorem State.startOperation_nextSample (l : Nat) : (s.startOperation l).nextSample = s.nextSample := rfl
@[simp] theorem State.startOperation_volume (l : Nat) : (s.startOperation l).volume = s.volume := rfl
@[simp] theorem State.startOperation_captureOn (l : Nat) : (s.startOperation l).captureOn = s.captureOn := rfl
@[simp] theorem State.startOperation_capture (l : Nat) : (s.startOperation l).capture = s.capture := rfl
@[simp] theorem State.startOperation_mcr (l : Nat) : (s.startOperation l).mcr = s.mcr := rfl
@[simp] theorem State.startOperation_inputs (l : Nat) : (s.startOperation l).inputs = s.inputs := rfl
@[simp] theorem State.startOperation_out (l : Nat) : (s.startOperation l).out = s.out := rfl
@[simp] theorem State.startOperation_draws (l : Nat) : (s.startOperation l).draws = s.draws := rfl

/-! ### completeOperation -/

@[simp] theorem State.completeOperation_now : (s.completeOperation).now = s.now := rfl
@[simp] theorem State.completeOperation_pr : (s.completeOperation).pr = s.pr := rfl
@[simp] theorem State.completeOperation_pe : (s.completeOperation).pe = s.pe := rfl
@[simp] theorem State.completeOperation_rom : (s.completeOperation).rom = s.rom := rfl
@[simp] theorem State.completeOperation_romErased : (s.completeOperation).romErased = s.romErased := rfl
@[simp] theorem State.completeOperation_ram : (s.completeOperation).ram = s.ram := rfl
@[simp] theorem State.completeOperation_seq : (s.completeOperation).seq = 0x00 := rfl
@[simp] theorem State.completeOperation_active : (s.completeOperation).active = false := rfl
@[simp] theorem State.completeOperation_deadline : (s.completeOperation).deadline = s.deadline := rfl
@[simp] theorem State.completeOperation_tmask : (s.completeOperation).tmask = s.tmask := rfl
@[simp] theorem State.completeOperation_buf : (s.completeOperation).buf = s.buf := rfl
@[simp] theorem State.completeOperation_rd : (s.completeOperation).rd = s.rd := rfl
@[simp] theorem State.completeOperation_wr : (s.completeOperation).wr = s.wr := rfl
@[simp] theorem State.completeOperation_avail : (s.completeOperation).avail = s.avail := rfl
@[simp] theorem State.completeOperation_last : (s.completeOperation).last = s.last := rfl
@[simp] theorem State.completeOperation_nextSample : (s.completeOperation).nextSample = s.nextSample := rfl
@[simp] theorem State.completeOperation_volume : (s.completeOperation).volume = s.volume := rfl
@[simp] theorem State.completeOperation_captureOn : (s.completeOperation).captureOn = s.captureOn := rfl
@[simp] theorem State.completeOperation_capture : (s.completeOperation).capture = s.capture := rfl
@[simp] theorem State.completeOperation_mcr : (s.completeOperation).mcr = s.mcr := rfl
@[simp] theorem State.completeOperation_inputs : (s.completeOperation).inputs = s.inputs := rfl
@[simp] theorem State.completeOperation_out : (s.completeOperation).out = s.out := rfl
@[simp] theorem State.completeOperation_draws : (s.completeOperation).draws = s.draws := rfl

/-! ### setCapture -/

@[simp] theorem State.setCapture_now (b : Bool) : (s.setCapture b).now = s.now := rfl
@[simp] theorem State.setCapture_pr (b : Bool) : (s.setCapture b).pr = s.pr := rfl
@[simp] theorem State.setCapture_pe (b : Bool) : (s.setCapture b).pe = s.pe := rfl
@[simp] theorem State.setCapture_rom (b : Bool) : (s.setCapture b).rom = s.rom := rfl
@[simp] theorem State.setCapture_romErased (b : Bool) : (s.setCapture b).romErased = s.romErased := rfl
@[simp] theorem State.setCapture_ram (b : Bool) : (s.setCapture b).ram = s.ram := rfl
@[simp] theorem State.setCapture_seq (b : Bool) : (s.setCapture b).seq = s.seq := rfl
@[simp] theorem State.setCapture_active (b : Bool) : (s.setCapture b).active = s.active := rfl
@[simp] theorem State.setCapture_deadline (b : Bool) : (s.setCapture b).deadline = s.deadline := rfl
@[simp] theorem State.setCapture_tmask (b : Bool) : (s.setCapture b).tmask = s.tmask := rfl
@[simp] theorem State.setCapture_buf (b : Bool) : (s.setCapture b).buf = s.buf := rfl
@[simp] theorem State.setCapture_rd (b : Bool) : (s.setCapture b).rd = s.rd := rfl
@[simp] theorem State.setCapture_wr (b : Bool) : (s.setCapture b).wr = s.wr := rfl
@[simp] theorem State.setCapture_avail (b : Bool) : (s.setCapture b).avail = s.avail := rfl
@[simp] theorem State.setCapture_last (b : Bool) : (s.setCapture b).last = s.last := rfl
@[simp] theorem State.setCapture_nextSample (b : Bool) : (s.setCapture b).nextSample = s.nextSample := rfl
@[simp] theorem State.setCapture_volume (b : Bool) : (s.setCapture b).volume = s.volume := rfl
@[simp] theorem State.setCapture_captureOn (b : Bool) : (s.setCapture b).captureOn = b := rfl
@[simp] theorem State.setCapture_capture (b : Bool) : (s.setCapture b).capture = s.capture := rfl
@[simp] theorem State.setCapture_mcr (b : Bool) : (s.setCapture b).mcr = s.mcr := rfl
@[simp] theorem State.setCapture_inputs (b : Bool) : (s.setCapture b).inputs = s.inputs := rfl
@[simp] theorem State.setCapture_out (b : Bool) : (s.setCapture b).out = s.out := rfl
@[simp] theorem State.setCapture_draws (b : Bool) : (s.setCapture b).draws = s.draws := rfl

/-! ### writeRam -/

@[simp] theorem State.writeRam_now (o : Offset) (d : Byte) : (s.writeRam P o d).now = s.now := rfl
@[simp] theorem State.writeRam_pr (o : Offset) (d : Byte) : (s.writeRam P o d).pr = s.pr := rfl
@[simp] theorem State.writeRam_pe (o : Offset) (d : Byte) : (s.writeRam P o d).pe = s.pe := rfl
@[simp] theorem State.writeRam_rom (o : Offset) (d : Byte) : (s.writeRam P o d).rom = s.rom := rfl
@[simp] theorem State.writeRam_romErased (o : Offset) (d : Byte) : (s.writeRam P o d).romErased = s.romErased := rfl
@[simp] theorem State.writeRam_ram (o : Offset) (d : Byte) : (s.writeRam P o d).ram = Memory.write (ramUnlisted P) s.ram o.toNat d := rfl
@[simp] theorem State.writeRam_seq (o : Offset) (d : Byte) : (s.writeRam P o d).seq = s.seq := rfl
@[simp] theorem State.writeRam_active (o : Offset) (d : Byte) : (s.writeRam P o d).active = s.active := rfl
@[simp] theorem State.writeRam_deadline (o : Offset) (d : Byte) : (s.writeRam P o d).deadline = s.deadline := rfl
@[simp] theorem State.writeRam_tmask (o : Offset) (d : Byte) : (s.writeRam P o d).tmask = s.tmask := rfl
@[simp] theorem State.writeRam_buf (o : Offset) (d : Byte) : (s.writeRam P o d).buf = s.buf := rfl
@[simp] theorem State.writeRam_rd (o : Offset) (d : Byte) : (s.writeRam P o d).rd = s.rd := rfl
@[simp] theorem State.writeRam_wr (o : Offset) (d : Byte) : (s.writeRam P o d).wr = s.wr := rfl
@[simp] theorem State.writeRam_avail (o : Offset) (d : Byte) : (s.writeRam P o d).avail = s.avail := rfl
@[simp] theorem State.writeRam_last (o : Offset) (d : Byte) : (s.writeRam P o d).last = s.last := rfl
@[simp] theorem State.writeRam_nextSample (o : Offset) (d : Byte) : (s.writeRam P o d).nextSample = s.nextSample := rfl
@[simp] theorem State.writeRam_volume (o : Offset) (d : Byte) : (s.writeRam P o d).volume = s.volume := rfl
@[simp] theorem State.writeRam_captureOn (o : Offset) (d : Byte) : (s.writeRam P o d).captureOn = s.captureOn := rfl
@[simp] theorem State.writeRam_capture (o : Offset) (d : Byte) : (s.writeRam P o d).capture = s.capture := rfl
@[simp] theorem State.writeRam_mcr (o : Offset) (d : Byte) : (s.writeRam P o d).mcr = s.mcr := rfl
@[simp] theorem State.writeRam_inputs (o : Offset) (d : Byte) : (s.writeRam P o d).inputs = s.inputs := rfl
@[simp] theorem State.writeRam_out (o : Offset) (d : Byte) : (s.writeRam P o d).out = s.out := rfl
@[simp] theorem State.writeRam_draws (o : Offset) (d : Byte) : (s.writeRam P o d).draws = s.draws := rfl

/-! ### programRom -/

@[simp] theorem State.programRom_now (o : Offset) (d : Byte) : (s.programRom P o d).now = s.now := rfl
@[simp] theorem State.programRom_pr (o : Offset) (d : Byte) : (s.programRom P o d).pr = s.pr := rfl
@[simp] theorem State.programRom_pe (o : Offset) (d : Byte) : (s.programRom P o d).pe = s.pe := rfl
@[simp] theorem State.programRom_rom (o : Offset) (d : Byte) : (s.programRom P o d).rom = Memory.write (s.romUnlisted P) s.rom o.toNat d := rfl
@[simp] theorem State.programRom_romErased (o : Offset) (d : Byte) : (s.programRom P o d).romErased = s.romErased := rfl
@[simp] theorem State.programRom_ram (o : Offset) (d : Byte) : (s.programRom P o d).ram = s.ram := rfl
@[simp] theorem State.programRom_seq (o : Offset) (d : Byte) : (s.programRom P o d).seq = s.seq := rfl
@[simp] theorem State.programRom_active (o : Offset) (d : Byte) : (s.programRom P o d).active = s.active := rfl
@[simp] theorem State.programRom_deadline (o : Offset) (d : Byte) : (s.programRom P o d).deadline = s.deadline := rfl
@[simp] theorem State.programRom_tmask (o : Offset) (d : Byte) : (s.programRom P o d).tmask = s.tmask := rfl
@[simp] theorem State.programRom_buf (o : Offset) (d : Byte) : (s.programRom P o d).buf = s.buf := rfl
@[simp] theorem State.programRom_rd (o : Offset) (d : Byte) : (s.programRom P o d).rd = s.rd := rfl
@[simp] theorem State.programRom_wr (o : Offset) (d : Byte) : (s.programRom P o d).wr = s.wr := rfl
@[simp] theorem State.programRom_avail (o : Offset) (d : Byte) : (s.programRom P o d).avail = s.avail := rfl
@[simp] theorem State.programRom_last (o : Offset) (d : Byte) : (s.programRom P o d).last = s.last := rfl
@[simp] theorem State.programRom_nextSample (o : Offset) (d : Byte) : (s.programRom P o d).nextSample = s.nextSample := rfl
@[simp] theorem State.programRom_volume (o : Offset) (d : Byte) : (s.programRom P o d).volume = s.volume := rfl
@[simp] theorem State.programRom_captureOn (o : Offset) (d : Byte) : (s.programRom P o d).captureOn = s.captureOn := rfl
@[simp] theorem State.programRom_capture (o : Offset) (d : Byte) : (s.programRom P o d).capture = s.capture := rfl
@[simp] theorem State.programRom_mcr (o : Offset) (d : Byte) : (s.programRom P o d).mcr = s.mcr := rfl
@[simp] theorem State.programRom_inputs (o : Offset) (d : Byte) : (s.programRom P o d).inputs = s.inputs := rfl
@[simp] theorem State.programRom_out (o : Offset) (d : Byte) : (s.programRom P o d).out = s.out := rfl
@[simp] theorem State.programRom_draws (o : Offset) (d : Byte) : (s.programRom P o d).draws = s.draws := rfl

/-! ### eraseSector -/

@[simp] theorem State.eraseSector_now (o : Offset) : (s.eraseSector P o).now = s.now := rfl
@[simp] theorem State.eraseSector_pr (o : Offset) : (s.eraseSector P o).pr = s.pr := rfl
@[simp] theorem State.eraseSector_pe (o : Offset) : (s.eraseSector P o).pe = s.pe := rfl
@[simp] theorem State.eraseSector_rom (o : Offset) : (s.eraseSector P o).rom = Memory.fill (s.romUnlisted P) s.rom (sectorBase o).toNat sectorSize 0xFF := rfl
@[simp] theorem State.eraseSector_romErased (o : Offset) : (s.eraseSector P o).romErased = s.romErased := rfl
@[simp] theorem State.eraseSector_ram (o : Offset) : (s.eraseSector P o).ram = s.ram := rfl
@[simp] theorem State.eraseSector_seq (o : Offset) : (s.eraseSector P o).seq = s.seq := rfl
@[simp] theorem State.eraseSector_active (o : Offset) : (s.eraseSector P o).active = s.active := rfl
@[simp] theorem State.eraseSector_deadline (o : Offset) : (s.eraseSector P o).deadline = s.deadline := rfl
@[simp] theorem State.eraseSector_tmask (o : Offset) : (s.eraseSector P o).tmask = s.tmask := rfl
@[simp] theorem State.eraseSector_buf (o : Offset) : (s.eraseSector P o).buf = s.buf := rfl
@[simp] theorem State.eraseSector_rd (o : Offset) : (s.eraseSector P o).rd = s.rd := rfl
@[simp] theorem State.eraseSector_wr (o : Offset) : (s.eraseSector P o).wr = s.wr := rfl
@[simp] theorem State.eraseSector_avail (o : Offset) : (s.eraseSector P o).avail = s.avail := rfl
@[simp] theorem State.eraseSector_last (o : Offset) : (s.eraseSector P o).last = s.last := rfl
@[simp] theorem State.eraseSector_nextSample (o : Offset) : (s.eraseSector P o).nextSample = s.nextSample := rfl
@[simp] theorem State.eraseSector_volume (o : Offset) : (s.eraseSector P o).volume = s.volume := rfl
@[simp] theorem State.eraseSector_captureOn (o : Offset) : (s.eraseSector P o).captureOn = s.captureOn := rfl
@[simp] theorem State.eraseSector_capture (o : Offset) : (s.eraseSector P o).capture = s.capture := rfl
@[simp] theorem State.eraseSector_mcr (o : Offset) : (s.eraseSector P o).mcr = s.mcr := rfl
@[simp] theorem State.eraseSector_inputs (o : Offset) : (s.eraseSector P o).inputs = s.inputs := rfl
@[simp] theorem State.eraseSector_out (o : Offset) : (s.eraseSector P o).out = s.out := rfl
@[simp] theorem State.eraseSector_draws (o : Offset) : (s.eraseSector P o).draws = s.draws := rfl

/-! ### eraseChip -/

@[simp] theorem State.eraseChip_now : (s.eraseChip).now = s.now := rfl
@[simp] theorem State.eraseChip_pr : (s.eraseChip).pr = s.pr := rfl
@[simp] theorem State.eraseChip_pe : (s.eraseChip).pe = s.pe := rfl
@[simp] theorem State.eraseChip_rom : (s.eraseChip).rom = [] := rfl
@[simp] theorem State.eraseChip_romErased : (s.eraseChip).romErased = true := rfl
@[simp] theorem State.eraseChip_ram : (s.eraseChip).ram = s.ram := rfl
@[simp] theorem State.eraseChip_seq : (s.eraseChip).seq = s.seq := rfl
@[simp] theorem State.eraseChip_active : (s.eraseChip).active = s.active := rfl
@[simp] theorem State.eraseChip_deadline : (s.eraseChip).deadline = s.deadline := rfl
@[simp] theorem State.eraseChip_tmask : (s.eraseChip).tmask = s.tmask := rfl
@[simp] theorem State.eraseChip_buf : (s.eraseChip).buf = s.buf := rfl
@[simp] theorem State.eraseChip_rd : (s.eraseChip).rd = s.rd := rfl
@[simp] theorem State.eraseChip_wr : (s.eraseChip).wr = s.wr := rfl
@[simp] theorem State.eraseChip_avail : (s.eraseChip).avail = s.avail := rfl
@[simp] theorem State.eraseChip_last : (s.eraseChip).last = s.last := rfl
@[simp] theorem State.eraseChip_nextSample : (s.eraseChip).nextSample = s.nextSample := rfl
@[simp] theorem State.eraseChip_volume : (s.eraseChip).volume = s.volume := rfl
@[simp] theorem State.eraseChip_captureOn : (s.eraseChip).captureOn = s.captureOn := rfl
@[simp] theorem State.eraseChip_capture : (s.eraseChip).capture = s.capture := rfl
@[simp] theorem State.eraseChip_mcr : (s.eraseChip).mcr = s.mcr := rfl
@[simp] theorem State.eraseChip_inputs : (s.eraseChip).inputs = s.inputs := rfl
@[simp] theorem State.eraseChip_out : (s.eraseChip).out = s.out := rfl
@[simp] theorem State.eraseChip_draws : (s.eraseChip).draws = s.draws := rfl

/-! ### setPage -/

@[simp] theorem State.setPage_now (i : BitVec 2) (v : Byte) : (s.setPage i v).now = s.now := rfl
@[simp] theorem State.setPage_pr (i : BitVec 2) (v : Byte) : (s.setPage i v).pr = s.pr.set i.toNat v i.isLt := rfl
@[simp] theorem State.setPage_pe (i : BitVec 2) (v : Byte) : (s.setPage i v).pe = s.pe := rfl
@[simp] theorem State.setPage_rom (i : BitVec 2) (v : Byte) : (s.setPage i v).rom = s.rom := rfl
@[simp] theorem State.setPage_romErased (i : BitVec 2) (v : Byte) : (s.setPage i v).romErased = s.romErased := rfl
@[simp] theorem State.setPage_ram (i : BitVec 2) (v : Byte) : (s.setPage i v).ram = s.ram := rfl
@[simp] theorem State.setPage_seq (i : BitVec 2) (v : Byte) : (s.setPage i v).seq = s.seq := rfl
@[simp] theorem State.setPage_active (i : BitVec 2) (v : Byte) : (s.setPage i v).active = s.active := rfl
@[simp] theorem State.setPage_deadline (i : BitVec 2) (v : Byte) : (s.setPage i v).deadline = s.deadline := rfl
@[simp] theorem State.setPage_tmask (i : BitVec 2) (v : Byte) : (s.setPage i v).tmask = s.tmask := rfl
@[simp] theorem State.setPage_buf (i : BitVec 2) (v : Byte) : (s.setPage i v).buf = s.buf := rfl
@[simp] theorem State.setPage_rd (i : BitVec 2) (v : Byte) : (s.setPage i v).rd = s.rd := rfl
@[simp] theorem State.setPage_wr (i : BitVec 2) (v : Byte) : (s.setPage i v).wr = s.wr := rfl
@[simp] theorem State.setPage_avail (i : BitVec 2) (v : Byte) : (s.setPage i v).avail = s.avail := rfl
@[simp] theorem State.setPage_last (i : BitVec 2) (v : Byte) : (s.setPage i v).last = s.last := rfl
@[simp] theorem State.setPage_nextSample (i : BitVec 2) (v : Byte) : (s.setPage i v).nextSample = s.nextSample := rfl
@[simp] theorem State.setPage_volume (i : BitVec 2) (v : Byte) : (s.setPage i v).volume = s.volume := rfl
@[simp] theorem State.setPage_captureOn (i : BitVec 2) (v : Byte) : (s.setPage i v).captureOn = s.captureOn := rfl
@[simp] theorem State.setPage_capture (i : BitVec 2) (v : Byte) : (s.setPage i v).capture = s.capture := rfl
@[simp] theorem State.setPage_mcr (i : BitVec 2) (v : Byte) : (s.setPage i v).mcr = s.mcr := rfl
@[simp] theorem State.setPage_inputs (i : BitVec 2) (v : Byte) : (s.setPage i v).inputs = s.inputs := rfl
@[simp] theorem State.setPage_out (i : BitVec 2) (v : Byte) : (s.setPage i v).out = s.out := rfl
@[simp] theorem State.setPage_draws (i : BitVec 2) (v : Byte) : (s.setPage i v).draws = s.draws := rfl

/-! ### setSeq -/

@[simp] theorem State.setSeq_now (c : Byte) : (s.setSeq c).now = s.now := rfl
@[simp] theorem State.setSeq_pr (c : Byte) : (s.setSeq c).pr = s.pr := rfl
@[simp] theorem State.setSeq_pe (c : Byte) : (s.setSeq c).pe = s.pe := rfl
@[simp] theorem State.setSeq_rom (c : Byte) : (s.setSeq c).rom = s.rom := rfl
@[simp] theorem State.setSeq_romErased (c : Byte) : (s.setSeq c).romErased = s.romErased := rfl
@[simp] theorem State.setSeq_ram (c : Byte) : (s.setSeq c).ram = s.ram := rfl
@[simp] theorem State.setSeq_seq (c : Byte) : (s.setSeq c).seq = c := rfl
@[simp] theorem State.setSeq_active (c : Byte) : (s.setSeq c).active = s.active := rfl
@[simp] theorem State.setSeq_deadline (c : Byte) : (s.setSeq c).deadline = s.deadline := rfl
@[simp] theorem State.setSeq_tmask (c : Byte) : (s.setSeq c).tmask = s.tmask := rfl
@[simp] theorem State.setSeq_buf (c : Byte) : (s.setSeq c).buf = s.buf := rfl
@[simp] theorem State.setSeq_rd (c : Byte) : (s.setSeq c).rd = s.rd := rfl
@[simp] theorem State.setSeq_wr (c : Byte) : (s.setSeq c).wr = s.wr := rfl
@[simp] theorem State.setSeq_avail (c : Byte) : (s.setSeq c).avail = s.avail := rfl
@[simp] theorem State.setSeq_last (c : Byte) : (s.setSeq c).last = s.last := rfl
@[simp] theorem State.setSeq_nextSample (c : Byte) : (s.setSeq c).nextSample = s.nextSample := rfl
@[simp] theorem State.setSeq_volume (c : Byte) : (s.setSeq c).volume = s.volume := rfl
@[simp] theorem State.setSeq_captureOn (c : Byte) : (s.setSeq c).captureOn = s.captureOn := rfl
@[simp] theorem State.setSeq_capture (c : Byte) : (s.setSeq c).capture = s.capture := rfl
@[simp] theorem State.setSeq_mcr (c : Byte) : (s.setSeq c).mcr = s.mcr := rfl
@[simp] theorem State.setSeq_inputs (c : Byte) : (s.setSeq c).inputs = s.inputs := rfl
@[simp] theorem State.setSeq_out (c : Byte) : (s.setSeq c).out = s.out := rfl
@[simp] theorem State.setSeq_draws (c : Byte) : (s.setSeq c).draws = s.draws := rfl

/-! ### flipMask -/

@[simp] theorem State.flipMask_now : (s.flipMask).now = s.now := rfl
@[simp] theorem State.flipMask_pr : (s.flipMask).pr = s.pr := rfl
@[simp] theorem State.flipMask_pe : (s.flipMask).pe = s.pe := rfl
@[simp] theorem State.flipMask_rom : (s.flipMask).rom = s.rom := rfl
@[simp] theorem State.flipMask_romErased : (s.flipMask).romErased = s.romErased := rfl
@[simp] theorem State.flipMask_ram : (s.flipMask).ram = s.ram := rfl
@[simp] theorem State.flipMask_seq : (s.flipMask).seq = s.seq := rfl
@[simp] theorem State.flipMask_active : (s.flipMask).active = s.active := rfl
@[simp] theorem State.flipMask_deadline : (s.flipMask).deadline = s.deadline := rfl
@[simp] theorem State.flipMask_tmask : (s.flipMask).tmask = s.tmask ^^^ toggleFlip := rfl
@[simp] theorem State.flipMask_buf : (s.flipMask).buf = s.buf := rfl
@[simp] theorem State.flipMask_rd : (s.flipMask).rd = s.rd := rfl
@[simp] theorem State.flipMask_wr : (s.flipMask).wr = s.wr := rfl
@[simp] theorem State.flipMask_avail : (s.flipMask).avail = s.avail := rfl
@[simp] theorem State.flipMask_last : (s.flipMask).last = s.last := rfl
@[simp] theorem State.flipMask_nextSample : (s.flipMask).nextSample = s.nextSample := rfl
@[simp] theorem State.flipMask_volume : (s.flipMask).volume = s.volume := rfl
@[simp] theorem State.flipMask_captureOn : (s.flipMask).captureOn = s.captureOn := rfl
@[simp] theorem State.flipMask_capture : (s.flipMask).capture = s.capture := rfl
@[simp] theorem State.flipMask_mcr : (s.flipMask).mcr = s.mcr := rfl
@[simp] theorem State.flipMask_inputs : (s.flipMask).inputs = s.inputs := rfl
@[simp] theorem State.flipMask_out : (s.flipMask).out = s.out := rfl
@[simp] theorem State.flipMask_draws : (s.flipMask).draws = s.draws := rfl

/-! ### setVolume -/

@[simp] theorem State.setVolume_now (v : Nat) : (s.setVolume v).now = s.now := rfl
@[simp] theorem State.setVolume_pr (v : Nat) : (s.setVolume v).pr = s.pr := rfl
@[simp] theorem State.setVolume_pe (v : Nat) : (s.setVolume v).pe = s.pe := rfl
@[simp] theorem State.setVolume_rom (v : Nat) : (s.setVolume v).rom = s.rom := rfl
@[simp] theorem State.setVolume_romErased (v : Nat) : (s.setVolume v).romErased = s.romErased := rfl
@[simp] theorem State.setVolume_ram (v : Nat) : (s.setVolume v).ram = s.ram := rfl
@[simp] theorem State.setVolume_seq (v : Nat) : (s.setVolume v).seq = s.seq := rfl
@[simp] theorem State.setVolume_active (v : Nat) : (s.setVolume v).active = s.active := rfl
@[simp] theorem State.setVolume_deadline (v : Nat) : (s.setVolume v).deadline = s.deadline := rfl
@[simp] theorem State.setVolume_tmask (v : Nat) : (s.setVolume v).tmask = s.tmask := rfl
@[simp] theorem State.setVolume_buf (v : Nat) : (s.setVolume v).buf = s.buf := rfl
@[simp] theorem State.setVolume_rd (v : Nat) : (s.setVolume v).rd = s.rd := rfl
@[simp] theorem State.setVolume_wr (v : Nat) : (s.setVolume v).wr = s.wr := rfl
@[simp] theorem State.setVolume_avail (v : Nat) : (s.setVolume v).avail = s.avail := rfl
@[simp] theorem State.setVolume_last (v : Nat) : (s.setVolume v).last = s.last := rfl
@[simp] theorem State.setVolume_nextSample (v : Nat) : (s.setVolume v).nextSample = s.nextSample := rfl
@[simp] theorem State.setVolume_volume (v : Nat) : (s.setVolume v).volume = v := rfl
@[simp] theorem State.setVolume_captureOn (v : Nat) : (s.setVolume v).captureOn = s.captureOn := rfl
@[simp] theorem State.setVolume_capture (v : Nat) : (s.setVolume v).capture = s.capture := rfl
@[simp] theorem State.setVolume_mcr (v : Nat) : (s.setVolume v).mcr = s.mcr := rfl
@[simp] theorem State.setVolume_inputs (v : Nat) : (s.setVolume v).inputs = s.inputs := rfl
@[simp] theorem State.setVolume_out (v : Nat) : (s.setVolume v).out = s.out := rfl
@[simp] theorem State.setVolume_draws (v : Nat) : (s.setVolume v).draws = s.draws := rfl

/-! ### answer -/

@[simp] theorem State.answer_now (a : Answer) : (s.answer a).now = s.now := rfl
@[simp] theorem State.answer_pr (a : Answer) : (s.answer a).pr = s.pr := rfl
@[simp] theorem State.answer_pe (a : Answer) : (s.answer a).pe = s.pe := rfl
@[simp] theorem State.answer_rom (a : Answer) : (s.answer a).rom = s.rom := rfl
@[simp] theorem State.answer_romErased (a : Answer) : (s.answer a).romErased = s.romErased := rfl
@[simp] theorem State.answer_ram (a : Answer) : (s.answer a).ram = s.ram := rfl
@[simp] theorem State.answer_seq (a : Answer) : (s.answer a).seq = s.seq := rfl
@[simp] theorem State.answer_active (a : Answer) : (s.answer a).active = s.active := rfl
@[simp] theorem State.answer_deadline (a : Answer) : (s.answer a).deadline = s.deadline := rfl
@[simp] theorem State.answer_tmask (a : Answer) : (s.answer a).tmask = s.tmask := rfl
@[simp] theorem State.answer_buf (a : Answer) : (s.answer a).buf = s.buf := rfl
@[simp] theorem State.answer_rd (a : Answer) : (s.answer a).rd = s.rd := rfl
@[simp] theorem State.answer_wr (a : Answer) : (s.answer a).wr = s.wr := rfl
@[simp] theorem State.answer_avail (a : Answer) : (s.answer a).avail = s.avail := rfl
@[simp] theorem State.answer_last (a : Answer) : (s.answer a).last = s.last := rfl
@[simp] theorem State.answer_nextSample (a : Answer) : (s.answer a).nextSample = s.nextSample := rfl
@[simp] theorem State.answer_volume (a : Answer) : (s.answer a).volume = s.volume := rfl
@[simp] theorem State.answer_captureOn (a : Answer) : (s.answer a).captureOn = s.captureOn := rfl
@[simp] theorem State.answer_capture (a : Answer) : (s.answer a).capture = s.capture := rfl
@[simp] theorem State.answer_mcr (a : Answer) : (s.answer a).mcr = s.mcr := rfl
@[simp] theorem State.answer_inputs (a : Answer) : (s.answer a).inputs = s.inputs := rfl
@[simp] theorem State.answer_out (a : Answer) : (s.answer a).out = s.out ++ [a] := rfl
@[simp] theorem State.answer_draws (a : Answer) : (s.answer a).draws = s.draws := rfl

/-! ### answerDraw -/

@[simp] theorem State.answerDraw_now : (s.answerDraw P).now = s.now := rfl
@[simp] theorem State.answerDraw_pr : (s.answerDraw P).pr = s.pr := rfl
@[simp] theorem State.answerDraw_pe : (s.answerDraw P).pe = s.pe := rfl
@[simp] theorem State.answerDraw_rom : (s.answerDraw P).rom = s.rom := rfl
@[simp] theorem State.answerDraw_romErased : (s.answerDraw P).romErased = s.romErased := rfl
@[simp] theorem State.answerDraw_ram : (s.answerDraw P).ram = s.ram := rfl
@[simp] theorem State.answerDraw_seq : (s.answerDraw P).seq = s.seq := rfl
@[simp] theorem State.answerDraw_active : (s.answerDraw P).active = s.active := rfl
@[simp] theorem State.answerDraw_deadline : (s.answerDraw P).deadline = s.deadline := rfl
@[simp] theorem State.answerDraw_tmask : (s.answerDraw P).tmask = s.tmask := rfl
@[simp] theorem State.answerDraw_buf : (s.answerDraw P).buf = s.buf := rfl
@[simp] theorem State.answerDraw_rd : (s.answerDraw P).rd = s.rd := rfl
@[simp] theorem State.answerDraw_wr : (s.answerDraw P).wr = s.wr := rfl
@[simp] theorem State.answerDraw_avail : (s.answerDraw P).avail = s.avail := rfl
@[simp] theorem State.answerDraw_last : (s.answerDraw P).last = s.last := rfl
@[simp] theorem State.answerDraw_nextSample : (s.answerDraw P).nextSample = s.nextSample := rfl
@[simp] theorem State.answerDraw_volume : (s.answerDraw P).volume = s.volume := rfl
@[simp] theorem State.answerDraw_captureOn : (s.answerDraw P).captureOn = s.captureOn := rfl
@[simp] theorem State.answerDraw_capture : (s.answerDraw P).capture = s.capture := rfl
@[simp] theorem State.answerDraw_mcr : (s.answerDraw P).mcr = s.mcr := rfl
@[simp] theorem State.answerDraw_inputs : (s.answerDraw P).inputs = s.inputs := rfl
@[simp] theorem State.answerDraw_out : (s.answerDraw P).out = s.out ++ [.byte (P.freeByte s.draws)] := rfl
@[simp] theorem State.answerDraw_draws : (s.answerDraw P).draws = s.draws + 1 := rfl

/-! ### beginTick -/

@[simp] theorem State.beginTick_now : (s.beginTick P).now = s.now + P.clockCyclePs := rfl
@[simp] theorem State.beginTick_pr : (s.beginTick P).pr = s.pr := rfl
@[simp] theorem State.beginTick_pe : (s.beginTick P).pe = s.pe := rfl
@[simp] theorem State.beginTick_rom : (s.beginTick P).rom = s.rom := rfl
@[simp] theorem State.beginTick_romErased : (s.beginTick P).romErased = s.romErased := rfl
@[simp] theorem State.beginTick_ram : (s.beginTick P).ram = s.ram := rfl
@[simp] theorem State.beginTick_seq : (s.beginTick P).seq = s.seq := rfl
@[simp] theorem State.beginTick_active : (s.beginTick P).active = s.active := rfl
@[simp] theorem State.beginTick_deadline : (s.beginTick P).deadline = s.deadline := rfl
@[simp] theorem State.beginTick_tmask : (s.beginTick P).tmask = s.tmask := rfl
@[simp] theorem State.beginTick_buf : (s.beginTick P).buf = s.buf := rfl
@[simp] theorem State.beginTick_rd : (s.beginTick P).rd = s.rd := rfl
@[simp] theorem State.beginTick_wr : (s.beginTick P).wr = s.wr := rfl
@[simp] theorem State.beginTick_avail : (s.beginTick P).avail = s.avail := rfl
@[simp] theorem State.beginTick_last : (s.beginTick P).last = s.last := rfl
@[simp] theorem State.beginTick_nextSample : (s.beginTick P).nextSample = s.nextSample := rfl
@[simp] theorem State.beginTick_volume : (s.beginTick P).volume = s.volume := rfl
@[simp] theorem State.beginTick_captureOn : (s.beginTick P).captureOn = s.captureOn := rfl
@[simp] theorem State.beginTick_capture : (s.beginTick P).capture = s.capture := rfl
@[simp] theorem State.beginTick_mcr : (s.beginTick P).mcr = s.mcr := rfl
@[simp] theorem State.beginTick_inputs : (s.beginTick P).inputs = s.inputs := rfl
@[simp] theorem State.beginTick_out : (s.beginTick P).out = s.out := rfl
@[simp] theorem State.beginTick_draws : (s.beginTick P).draws = s.draws := rfl

/-! ### popSample -/

@[simp] theorem State.popSample_now : (s.popSample P).now = s.now := rfl
@[simp] theorem State.popSample_pr : (s.popSample P).pr = s.pr := rfl
@[simp] theorem State.popSample_pe : (s.popSample P).pe = s.pe := rfl
@[simp] theorem State.popSample_rom : (s.popSample P).rom = s.rom := rfl
@[simp] theorem State.popSample_romErased : (s.popSample P).romErased = s.romErased := rfl
@[simp] theorem State.popSample_ram : (s.popSample P).ram = s.ram := rfl
@[simp] theorem State.popSample_seq : (s.popSample P).seq = s.seq := rfl
@[simp] theorem State.popSample_active : (s.popSample P).active = s.active := rfl
@[simp] theorem State.popSample_deadline : (s.popSample P).deadline = s.deadline := rfl
@[simp] theorem State.popSample_tmask : (s.popSample P).tmask = s.tmask := rfl
@[simp] theorem State.popSample_buf : (s.popSample P).buf = s.buf := rfl
@[simp] theorem State.popSample_rd : (s.popSample P).rd = if 0 < s.avail then (s.rd + 1) % P.audioCap else s.rd := rfl
@[simp] theorem State.popSample_wr : (s.popSample P).wr = s.wr := rfl
@[simp] theorem State.popSample_avail : (s.popSample P).avail = s.avail - 1 := rfl
@[simp] theorem State.popSample_last : (s.popSample P).last = s.nextOut := rfl
@[simp] theorem State.popSample_nextSample : (s.popSample P).nextSample = s.nextSample := rfl
@[simp] theorem State.popSample_volume : (s.popSample P).volume = s.volume := rfl
@[simp] theorem State.popSample_captureOn : (s.popSample P).captureOn = s.captureOn := rfl
@[simp] theorem State.popSample_capture : (s.popSample P).capture = if s.captureOn then s.capture ++ [s.nextOut] else s.capture := rfl
@[simp] theorem State.popSample_mcr : (s.popSample P).mcr = s.mcr := rfl
@[simp] theorem State.popSample_inputs : (s.popSample P).inputs = s.inputs := rfl
@[simp] theorem State.popSample_out : (s.popSample P).out = s.out := rfl
@[simp] theorem State.popSample_draws : (s.popSample P).draws = s.draws := rfl

/-! ### setNextSample -/

@[simp] theorem State.setNextSample_now (t : Nat) : (s.setNextSample t).now = s.now := rfl
@[simp] theorem State.setNextSample_pr (t : Nat) : (s.setNextSample t).pr = s.pr := rfl
@[simp] theorem State.setNextSample_pe (t : Nat) : (s.setNextSample t).pe = s.pe := rfl
@[simp] theorem State.setNextSample_rom (t : Nat) : (s.setNextSample t).rom = s.rom := rfl
@[simp] theorem State.setNextSample_romErased (t : Nat) : (s.setNextSample t).romErased = s.romErased := rfl
@[simp] theorem State.setNextSample_ram (t : Nat) : (s.setNextSample t).ram = s.ram := rfl
@[simp] theorem State.setNextSample_seq (t : Nat) : (s.setNextSample t).seq = s.seq := rfl
@[simp] theorem State.setNextSample_active (t : Nat) : (s.setNextSample t).active = s.active := rfl
@[simp] theorem State.setNextSample_deadline (t : Nat) : (s.setNextSample t).deadline = s.deadline := rfl
@[simp] theorem State.setNextSample_tmask (t : Nat) : (s.setNextSample t).tmask = s.tmask := rfl
@[simp] theorem State.setNextSample_buf (t : Nat) : (s.setNextSample t).buf = s.buf := rfl
@[simp] theorem State.setNextSample_rd (t : Nat) : (s.setNextSample t).rd = s.rd := rfl
@[simp] theorem State.setNextSample_wr (t : Nat) : (s.setNextSample t).wr = s.wr := rfl
@[simp] theorem State.setNextSample_avail (t : Nat) : (s.setNextSample t).avail = s.avail := rfl
@[simp] theorem State.setNextSample_last (t : Nat) : (s.setNextSample t).last = s.last := rfl
@[simp] theorem State.setNextSample_nextSample (t : Nat) : (s.setNextSample t).nextSample = t := rfl
@[simp] theorem State.setNextSample_volume (t : Nat) : (s.setNextSample t).volume = s.volume := rfl
@[simp] theorem State.setNextSample_captureOn (t : Nat) : (s.setNextSample t).captureOn = s.captureOn := rfl
@[simp] theorem State.setNextSample_capture (t : Nat) : (s.setNextSample t).capture = s.capture := rfl
@[simp] theorem State.setNextSample_mcr (t : Nat) : (s.setNextSample t).mcr = s.mcr := rfl
@[simp] theorem State.setNextSample_inputs (t : Nat) : (s.setNextSample t).inputs = s.inputs := rfl
@[simp] theorem State.setNextSample_out (t : Nat) : (s.setNextSample t).out = s.out := rfl
@[simp] theorem State.setNextSample_draws (t : Nat) : (s.setNextSample t).draws = s.draws := rfl

/-! ### setMcr -/

@[simp] theorem State.setMcr_now (b : Byte) : (s.setMcr b).now = s.now := rfl
@[simp] theorem State.setMcr_pr (b : Byte) : (s.setMcr b).pr = s.pr := rfl
@[simp] theorem State.setMcr_pe (b : Byte) : (s.setMcr b).pe = s.pe := rfl
@[simp] theorem State.setMcr_rom (b : Byte) : (s.setMcr b).rom = s.rom := rfl
@[simp] theorem State.setMcr_romErased (b : Byte) : (s.setMcr b).romErased = s.romErased := rfl
@[simp] theorem State.setMcr_ram (b : Byte) : (s.setMcr b).ram = s.ram := rfl
@[simp] theorem State.setMcr_seq (b : Byte) : (s.setMcr b).seq = s.seq := rfl
@[simp] theorem State.setMcr_active (b : Byte) : (s.setMcr b).active = s.active := rfl
@[simp] theorem State.setMcr_deadline (b : Byte) : (s.setMcr b).deadline = s.deadline := rfl
@[simp] theorem State.setMcr_tmask (b : Byte) : (s.setMcr b).tmask = s.tmask := rfl
@[simp] theorem State.setMcr_buf (b : Byte) : (s.setMcr b).buf = s.buf := rfl
@[simp] theorem State.setMcr_rd (b : Byte) : (s.setMcr b).rd = s.rd := rfl
@[simp] theorem State.setMcr_wr (b : Byte) : (s.setMcr b).wr = s.wr := rfl
@[simp] theorem State.setMcr_avail (b : Byte) : (s.setMcr b).avail = s.avail := rfl
@[simp] theorem State.setMcr_last (b : Byte) : (s.setMcr b).last = s.last := rfl
@[simp] theorem State.setMcr_nextSample (b : Byte) : (s.setMcr b).nextSample = s.nextSample := rfl
@[simp] theorem State.setMcr_volume (b : Byte) : (s.setMcr b).volume = s.volume := rfl
@[simp] theorem State.setMcr_captureOn (b : Byte) : (s.setMcr b).captureOn = s.captureOn := rfl
@[simp] theorem State.setMcr_capture (b : Byte) : (s.setMcr b).capture = s.capture := rfl
@[simp] theorem State.setMcr_mcr (b : Byte) : (s.setMcr b).mcr = b := rfl
@[simp] theorem State.setMcr_inputs (b : Byte) : (s.setMcr b).inputs = s.inputs := rfl
@[simp] theorem State.setMcr_out (b : Byte) : (s.setMcr b).out = s.out := rfl
@[simp] theorem State.setMcr_draws (b : Byte) : (s.setMcr b).draws = s.draws := rfl

/-! ### take -/

@[simp] theorem State.take_now (rest : List Input) : (s.take rest).now = s.now := rfl
@[simp] theorem State.take_pr (rest : List Input) : (s.take rest).pr = s.pr := rfl
@[simp] theorem State.take_pe (rest : List Input) : (s.take rest).pe = s.pe := rfl
@[simp] theorem State.take_rom (rest : List Input) : (s.take rest).rom = s.rom := rfl
@[simp] theorem State.take_romErased (rest : List Input) : (s.take rest).romErased = s.romErased := rfl
@[simp] theorem State.take_ram (rest : List Input) : (s.take rest).ram = s.ram := rfl
@[simp] theorem State.take_seq (rest : List Input) : (s.take rest).seq = s.seq := rfl
@[simp] theorem State.take_active (rest : List Input) : (s.take rest).active = s.active := rfl
@[simp] theorem State.take_deadline (rest : List Input) : (s.take rest).deadline = s.deadline := rfl
@[simp] theorem State.take_tmask (rest : List Input) : (s.take rest).tmask = s.tmask := rfl
@[simp] theorem State.take_buf (rest : List Input) : (s.take rest).buf = s.buf := rfl
@[simp] theorem State.take_rd (rest : List Input) : (s.take rest).rd = s.rd := rfl
@[simp] theorem State.take_wr (rest : List Input) : (s.take rest).wr = s.wr := rfl
@[simp] theorem State.take_avail (rest : List Input) : (s.take rest).avail = s.avail := rfl
@[simp] theorem State.take_last (rest : List Input) : (s.take rest).last = s.last := rfl
@[simp] theorem State.take_nextSample (rest : List Input) : (s.take rest).nextSample = s.nextSample := rfl
@[simp] theorem State.take_volume (rest : List Input) : (s.take rest).volume = s.volume := rfl
@[simp] theorem State.take_captureOn (rest : List Input) : (s.take rest).captureOn = s.captureOn := rfl
@[simp] theorem State.take_capture (rest : List Input) : (s.take rest).capture = s.capture := rfl
@[simp] theorem State.take_mcr (rest : List Input) : (s.take rest).mcr = s.mcr := rfl
@[simp] theorem State.take_inputs (rest : List Input) : (s.take rest).inputs = rest := rfl
@[simp] theorem State.take_out (rest : List Input) : (s.take rest).out = [] := rfl
@[simp] theorem State.take_draws (rest : List Input) : (s.take rest).draws = s.draws := rfl

/-! ### How the bytes read -/

@[simp] theorem State.setNextSample_ramByte (t : Nat) (k : Nat) : (s.setNextSample t).ramByte P k = s.ramByte P k := rfl
@[simp] theorem State.setNextSample_romByte (t : Nat) (k : Nat) : (s.setNextSample t).romByte P k = s.romByte P k := rfl
@[simp] theorem State.setNextSample_romUnlisted (t : Nat) : (s.setNextSample t).romUnlisted P = s.romUnlisted P := rfl
@[simp] theorem State.setPe_ramByte (b : Bool) (k : Nat) : (s.setPe b).ramByte P k = s.ramByte P k := rfl
@[simp] theorem State.setPe_romByte (b : Bool) (k : Nat) : (s.setPe b).romByte P k = s.romByte P k := rfl
@[simp] theorem State.setPe_romUnlisted (b : Bool) : (s.setPe b).romUnlisted P = s.romUnlisted P := rfl
@[simp] theorem State.startOperation_ramByte (l : Nat) (k : Nat) : (s.startOperation l).ramByte P k = s.ramByte P k := rfl
@[simp] theorem State.startOperation_romByte (l : Nat) (k : Nat) : (s.startOperation l).romByte P k = s.romByte P k := rfl
@[simp] theorem State.startOperation_romUnlisted (l : Nat) : (s.startOperation l).romUnlisted P = s.romUnlisted P := rfl
@[simp] theorem State.completeOperation_ramByte (k : Nat) : (s.completeOperation).ramByte P k = s.ramByte P k := rfl
@[simp] theorem State.completeOperation_romByte (k : Nat) : (s.completeOperation).romByte P k = s.romByte P k := rfl
@[simp] theorem State.completeOperation_romUnlisted : (s.completeOperation).romUnlisted P = s.romUnlisted P := rfl
@[simp] theorem State.setCapture_ramByte (b : Bool) (k : Nat) : (s.setCapture b).ramByte P k = s.ramByte P k := rfl
@[simp] theorem State.setCapture_romByte (b : Bool) (k : Nat) : (s.setCapture b).romByte P k = s.romByte P k := rfl
@[simp] theorem State.setCapture_romUnlisted (b : Bool) : (s.setCapture b).romUnlisted P = s.romUnlisted P := rfl
@[simp] theorem State.writeRam_romByte (o : Offset) (d : Byte) (k : Nat) : (s.writeRam P o d).romByte P k = s.romByte P k := rfl
@[simp] theorem State.writeRam_romUnlisted (o : Offset) (d : Byte) : (s.writeRam P o d).romUnlisted P = s.romUnlisted P := rfl
@[simp] theorem State.programRom_ramByte (o : Offset) (d : Byte) (k : Nat) : (s.programRom P o d).ramByte P k = s.ramByte P k := rfl
@[simp] theorem State.programRom_romUnlisted (o : Offset) (d : Byte) : (s.programRom P o d).romUnlisted P = s.romUnlisted P := rfl
@[simp] theorem State.eraseSector_ramByte (o : Offset) (k : Nat) : (s.eraseSector P o).ramByte P k = s.ramByte P k := rfl
@[simp] theorem State.eraseSector_romUnlisted (o : Offset) : (s.eraseSector P o).romUnlisted P = s.romUnlisted P := rfl
@[simp] theorem State.eraseChip_ramByte (k : Nat) : (s.eraseChip).ramByte P k = s.ramByte P k := rfl
@[simp] theorem State.setPage_ramByte (i : BitVec 2) (v : Byte) (k : Nat) : (s.setPage i v).ramByte P k = s.ramByte P k := rfl
@[simp] theorem State.setPage_romByte (i : BitVec 2) (v : Byte) (k : Nat) : (s.setPage i v).romByte P k = s.romByte P k := rfl
@[simp] theorem State.setPage_romUnlisted (i : BitVec 2) (v : Byte) : (s.setPage i v).romUnlisted P = s.romUnlisted P := rfl
@[simp] theorem State.setSeq_ramByte (c : Byte) (k : Nat) : (s.setSeq c).ramByte P k = s.ramByte P k := rfl
@[simp] theorem State.setSeq_romByte (c : Byte) (k : Nat) : (s.setSeq c).romByte P k = s.romByte P k := rfl
@[simp] theorem State.setSeq_romUnlisted (c : Byte) : (s.setSeq c).romUnlisted P = s.romUnlisted P := rfl
@[simp] theorem State.flipMask_ramByte (k : Nat) : (s.flipMask).ramByte P k = s.ramByte P k := rfl
@[simp] theorem State.flipMask_romByte (k : Nat) : (s.flipMask).romByte P k = s.romByte P k := rfl
@[simp] theorem State.flipMask_romUnlisted : (s.flipMask).romUnlisted P = s.romUnlisted P := rfl
@[simp] theorem State.setVolume_ramByte (v : Nat) (k : Nat) : (s.setVolume v).ramByte P k = s.ramByte P k := rfl
@[simp] theorem State.setVolume_romByte (v : Nat) (k : Nat) : (s.setVolume v).romByte P k = s.romByte P k := rfl
@[simp] theorem State.setVolume_romUnlisted (v : Nat) : (s.setVolume v).romUnlisted P = s.romUnlisted P := rfl
@[simp] theorem State.answer_ramByte (a : Answer) (k : Nat) : (s.answer a).ramByte P k = s.ramByte P k := rfl
@[simp] theorem State.answer_romByte (a : Answer) (k : Nat) : (s.answer a).romByte P k = s.romByte P k := rfl
@[simp] theorem State.answer_romUnlisted (a : Answer) : (s.answer a).romUnlisted P = s.romUnlisted P := rfl
@[simp] theorem State.answerDraw_ramByte (k : Nat) : (s.answerDraw P).ramByte P k = s.ramByte P k := rfl
@[simp] theorem State.answerDraw_romByte (k : Nat) : (s.answerDraw P).romByte P k = s.romByte P k := rfl
@[simp] theorem State.answerDraw_romUnlisted : (s.answerDraw P).romUnlisted P = s.romUnlisted P := rfl
@[simp] theorem State.beginTick_ramByte (k : Nat) : (s.beginTick P).ramByte P k = s.ramByte P k := rfl
@[simp] theorem State.beginTick_romByte (k : Nat) : (s.beginTick P).romByte P k = s.romByte P k := rfl
@[simp] theorem State.beginTick_romUnlisted : (s.beginTick P).romUnlisted P = s.romUnlisted P := rfl
@[simp] theorem State.popSample_ramByte (k : Nat) : (s.popSample P).ramByte P k = s.ramByte P k := rfl
@[simp] theorem State.popSample_romByte (k : Nat) : (s.popSample P).romByte P k = s.romByte P k := rfl
@[simp] theorem State.popSample_romUnlisted : (s.popSample P).romUnlisted P = s.romUnlisted P := rfl
@[simp] theorem State.setMcr_ramByte (b : Byte) (k : Nat) : (s.setMcr b).ramByte P k = s.ramByte P k := rfl
@[simp] theorem State.setMcr_romByte (b : Byte) (k : Nat) : (s.setMcr b).romByte P k = s.romByte P k := rfl
@[simp] theorem State.setMcr_romUnlisted (b : Byte) : (s.setMcr b).romUnlisted P = s.romUnlisted P := rfl
@[simp] theorem State.take_ramByte (rest : List Input) (k : Nat) : (s.take rest).ramByte P k = s.ramByte P k := rfl
@[simp] theorem State.take_romByte (rest : List Input) (k : Nat) : (s.take rest).romByte P k = s.romByte P k := rfl
@[simp] theorem State.take_romUnlisted (rest : List Input) : (s.take rest).romUnlisted P = s.romUnlisted P := rfl

@[simp] theorem State.writeRam_ramByte (o : Offset) (d : Byte) (k : Nat) :
    (s.writeRam P o d).ramByte P k = if k = o.toNat then d else s.ramByte P k := Memory.read_write

@[simp] theorem State.programRom_romByte (o : Offset) (d : Byte) (k : Nat) :
    (s.programRom P o d).romByte P k = if k = o.toNat then d else s.romByte P k := Memory.read_write

@[simp] theorem State.eraseSector_romByte (o : Offset) (k : Nat) :
    (s.eraseSector P o).romByte P k =
      if (sectorBase o).toNat ≤ k ∧ k < (sectorBase o).toNat + sectorSize then 0xFF else s.romByte P k := Memory.read_fill

@[simp] theorem State.eraseChip_romByte (k : Nat) : s.eraseChip.romByte P k = 0xFF := rfl

@[simp] theorem State.eraseChip_romUnlisted : s.eraseChip.romUnlisted P = fun _ => 0xFF := rfl

@[simp] theorem State.setPage_page_same (i : BitVec 2) (v : Byte) : (s.setPage i v).page i = v := by
  simp [State.page, State.setPage]

@[simp] theorem State.setPage_page_ne (i j : BitVec 2) (v : Byte) (h : i ≠ j) : (s.setPage i v).page j = s.page j := by
  have : i.toNat ≠ j.toNat := fun e => h (BitVec.eq_of_toNat_eq e)
  simp [State.page, State.setPage, this]

end Sys2Proof.Machine
end

