-- ==== Sys2Proof/Laws/Frames.lean ====
section
/-! SUPPORT. The frame of each shared operation that branches: the fields it never changes, and the bytes it leaves as
they read. -/

namespace Sys2Proof.Machine

variable (P : Params) (s : State)

/-! ### settle -/

@[simp] theorem State.settle_now : (s.settle).now = s.now := by unfold State.settle; split_ifs <;> rfl
@[simp] theorem State.settle_pr : (s.settle).pr = s.pr := by unfold State.settle; split_ifs <;> rfl
@[simp] theorem State.settle_pe : (s.settle).pe = s.pe := by unfold State.settle; split_ifs <;> rfl
@[simp] theorem State.settle_rom : (s.settle).rom = s.rom := by unfold State.settle; split_ifs <;> rfl
@[simp] theorem State.settle_romErased : (s.settle).romErased = s.romErased := by unfold State.settle; split_ifs <;> rfl
@[simp] theorem State.settle_ram : (s.settle).ram = s.ram := by unfold State.settle; split_ifs <;> rfl
@[simp] theorem State.settle_deadline : (s.settle).deadline = s.deadline := by unfold State.settle; split_ifs <;> rfl
@[simp] theorem State.settle_tmask : (s.settle).tmask = s.tmask := by unfold State.settle; split_ifs <;> rfl
@[simp] theorem State.settle_buf : (s.settle).buf = s.buf := by unfold State.settle; split_ifs <;> rfl
@[simp] theorem State.settle_rd : (s.settle).rd = s.rd := by unfold State.settle; split_ifs <;> rfl
@[simp] theorem State.settle_wr : (s.settle).wr = s.wr := by unfold State.settle; split_ifs <;> rfl
@[simp] theorem State.settle_avail : (s.settle).avail = s.avail := by unfold State.settle; split_ifs <;> rfl
@[simp] theorem State.settle_last : (s.settle).last = s.last := by unfold State.settle; split_ifs <;> rfl
@[simp] theorem State.settle_nextSample : (s.settle).nextSample = s.nextSample := by unfold State.settle; split_ifs <;> rfl
@[simp] theorem State.settle_volume : (s.settle).volume = s.volume := by unfold State.settle; split_ifs <;> rfl
@[simp] theorem State.settle_captureOn : (s.settle).captureOn = s.captureOn := by unfold State.settle; split_ifs <;> rfl
@[simp] theorem State.settle_capture : (s.settle).capture = s.capture := by unfold State.settle; split_ifs <;> rfl
@[simp] theorem State.settle_mcr : (s.settle).mcr = s.mcr := by unfold State.settle; split_ifs <;> rfl
@[simp] theorem State.settle_inputs : (s.settle).inputs = s.inputs := by unfold State.settle; split_ifs <;> rfl
@[simp] theorem State.settle_out : (s.settle).out = s.out := by unfold State.settle; split_ifs <;> rfl
@[simp] theorem State.settle_draws : (s.settle).draws = s.draws := by unfold State.settle; split_ifs <;> rfl
@[simp] theorem State.settle_ramByte (k : Nat) : (s.settle).ramByte P k = s.ramByte P k := by unfold State.settle; split_ifs <;> rfl
@[simp] theorem State.settle_romByte (k : Nat) : (s.settle).romByte P k = s.romByte P k := by unfold State.settle; split_ifs <;> rfl
@[simp] theorem State.settle_romUnlisted : (s.settle).romUnlisted P = s.romUnlisted P := by unfold State.settle; split_ifs <;> rfl

/-! ### flashStep -/

/-- `t` is `s` but for ROM and the sequencer's registers without the read mask. -/
def State.FlashOnly (s t : State) : Prop :=
  ∃ m e q a d, t = { s with rom := m, romErased := e, seq := q, active := a, deadline := d }

theorem State.FlashOnly.ite {s x y : State} {c : Prop} [Decidable c] (hx : s.FlashOnly x) (hy : s.FlashOnly y) :
    s.FlashOnly (if c then x else y) := by
  by_cases h : c
  · rw [if_pos h]; exact hx
  · rw [if_neg h]; exact hy

/-- All that a write into ROM space can change once the completion check is done. -/
theorem State.flashStep_shape (o : Offset) (d : Byte) : s.FlashOnly (s.flashStep P o d) := by
  unfold State.flashStep
  repeat' apply State.FlashOnly.ite
  all_goals exact ⟨_, _, _, _, _, rfl⟩

@[simp] theorem State.flashStep_now (o : Offset) (d : Byte) : (s.flashStep P o d).now = s.now := by
  obtain ⟨_, _, _, _, _, h⟩ := s.flashStep_shape P o d; rw [h]
@[simp] theorem State.flashStep_pr (o : Offset) (d : Byte) : (s.flashStep P o d).pr = s.pr := by
  obtain ⟨_, _, _, _, _, h⟩ := s.flashStep_shape P o d; rw [h]
@[simp] theorem State.flashStep_pe (o : Offset) (d : Byte) : (s.flashStep P o d).pe = s.pe := by
  obtain ⟨_, _, _, _, _, h⟩ := s.flashStep_shape P o d; rw [h]
@[simp] theorem State.flashStep_ram (o : Offset) (d : Byte) : (s.flashStep P o d).ram = s.ram := by
  obtain ⟨_, _, _, _, _, h⟩ := s.flashStep_shape P o d; rw [h]
@[simp] theorem State.flashStep_tmask (o : Offset) (d : Byte) : (s.flashStep P o d).tmask = s.tmask := by
  obtain ⟨_, _, _, _, _, h⟩ := s.flashStep_shape P o d; rw [h]
@[simp] theorem State.flashStep_buf (o : Offset) (d : Byte) : (s.flashStep P o d).buf = s.buf := by
  obtain ⟨_, _, _, _, _, h⟩ := s.flashStep_shape P o d; rw [h]
@[simp] theorem State.flashStep_rd (o : Offset) (d : Byte) : (s.flashStep P o d).rd = s.rd := by
  obtain ⟨_, _, _, _, _, h⟩ := s.flashStep_shape P o d; rw [h]
@[simp] theorem State.flashStep_wr (o : Offset) (d : Byte) : (s.flashStep P o d).wr = s.wr := by
  obtain ⟨_, _, _, _, _, h⟩ := s.flashStep_shape P o d; rw [h]
@[simp] theorem State.flashStep_avail (o : Offset) (d : Byte) : (s.flashStep P o d).avail = s.avail := by
  obtain ⟨_, _, _, _, _, h⟩ := s.flashStep_shape P o d; rw [h]
@[simp] theorem State.flashStep_last (o : Offset) (d : Byte) : (s.flashStep P o d).last = s.last := by
  obtain ⟨_, _, _, _, _, h⟩ := s.flashStep_shape P o d; rw [h]
@[simp] theorem State.flashStep_nextSample (o : Offset) (d : Byte) : (s.flashStep P o d).nextSample = s.nextSample := by
  obtain ⟨_, _, _, _, _, h⟩ := s.flashStep_shape P o d; rw [h]
@[simp] theorem State.flashStep_volume (o : Offset) (d : Byte) : (s.flashStep P o d).volume = s.volume := by
  obtain ⟨_, _, _, _, _, h⟩ := s.flashStep_shape P o d; rw [h]
@[simp] theorem State.flashStep_captureOn (o : Offset) (d : Byte) : (s.flashStep P o d).captureOn = s.captureOn := by
  obtain ⟨_, _, _, _, _, h⟩ := s.flashStep_shape P o d; rw [h]
@[simp] theorem State.flashStep_capture (o : Offset) (d : Byte) : (s.flashStep P o d).capture = s.capture := by
  obtain ⟨_, _, _, _, _, h⟩ := s.flashStep_shape P o d; rw [h]
@[simp] theorem State.flashStep_mcr (o : Offset) (d : Byte) : (s.flashStep P o d).mcr = s.mcr := by
  obtain ⟨_, _, _, _, _, h⟩ := s.flashStep_shape P o d; rw [h]
@[simp] theorem State.flashStep_inputs (o : Offset) (d : Byte) : (s.flashStep P o d).inputs = s.inputs := by
  obtain ⟨_, _, _, _, _, h⟩ := s.flashStep_shape P o d; rw [h]
@[simp] theorem State.flashStep_out (o : Offset) (d : Byte) : (s.flashStep P o d).out = s.out := by
  obtain ⟨_, _, _, _, _, h⟩ := s.flashStep_shape P o d; rw [h]
@[simp] theorem State.flashStep_draws (o : Offset) (d : Byte) : (s.flashStep P o d).draws = s.draws := by
  obtain ⟨_, _, _, _, _, h⟩ := s.flashStep_shape P o d; rw [h]
@[simp] theorem State.flashStep_ramByte (o : Offset) (d : Byte) (k : Nat) : (s.flashStep P o d).ramByte P k = s.ramByte P k := by
  obtain ⟨_, _, _, _, _, h⟩ := s.flashStep_shape P o d; rw [h]; rfl

/-! ### flashWrite -/

@[simp] theorem State.flashWrite_now (o : Offset) (d : Byte) : (s.flashWrite P o d).now = s.now := 
  (State.flashStep_now P s.settle o d).trans (State.settle_now s)
@[simp] theorem State.flashWrite_pr (o : Offset) (d : Byte) : (s.flashWrite P o d).pr = s.pr := 
  (State.flashStep_pr P s.settle o d).trans (State.settle_pr s)
@[simp] theorem State.flashWrite_pe (o : Offset) (d : Byte) : (s.flashWrite P o d).pe = s.pe := 
  (State.flashStep_pe P s.settle o d).trans (State.settle_pe s)
@[simp] theorem State.flashWrite_ram (o : Offset) (d : Byte) : (s.flashWrite P o d).ram = s.ram := 
  (State.flashStep_ram P s.settle o d).trans (State.settle_ram s)
@[simp] theorem State.flashWrite_tmask (o : Offset) (d : Byte) : (s.flashWrite P o d).tmask = s.tmask := 
  (State.flashStep_tmask P s.settle o d).trans (State.settle_tmask s)
@[simp] theorem State.flashWrite_buf (o : Offset) (d : Byte) : (s.flashWrite P o d).buf = s.buf := 
  (State.flashStep_buf P s.settle o d).trans (State.settle_buf s)
@[simp] theorem State.flashWrite_rd (o : Offset) (d : Byte) : (s.flashWrite P o d).rd = s.rd := 
  (State.flashStep_rd P s.settle o d).trans (State.settle_rd s)
@[simp] theorem State.flashWrite_wr (o : Offset) (d : Byte) : (s.flashWrite P o d).wr = s.wr := 
  (State.flashStep_wr P s.settle o d).trans (State.settle_wr s)
@[simp] theorem State.flashWrite_avail (o : Offset) (d : Byte) : (s.flashWrite P o d).avail = s.avail := 
  (State.flashStep_avail P s.settle o d).trans (State.settle_avail s)
@[simp] theorem State.flashWrite_last (o : Offset) (d : Byte) : (s.flashWrite P o d).last = s.last := 
  (State.flashStep_last P s.settle o d).trans (State.settle_last s)
@[simp] theorem State.flashWrite_nextSample (o : Offset) (d : Byte) : (s.flashWrite P o d).nextSample = s.nextSample := 
  (State.flashStep_nextSample P s.settle o d).trans (State.settle_nextSample s)
@[simp] theorem State.flashWrite_volume (o : Offset) (d : Byte) : (s.flashWrite P o d).volume = s.volume := 
  (State.flashStep_volume P s.settle o d).trans (State.settle_volume s)
@[simp] theorem State.flashWrite_captureOn (o : Offset) (d : Byte) : (s.flashWrite P o d).captureOn = s.captureOn := 
  (State.flashStep_captureOn P s.settle o d).trans (State.settle_captureOn s)
@[simp] theorem State.flashWrite_capture (o : Offset) (d : Byte) : (s.flashWrite P o d).capture = s.capture := 
  (State.flashStep_capture P s.settle o d).trans (State.settle_capture s)
@[simp] theorem State.flashWrite_mcr (o : Offset) (d : Byte) : (s.flashWrite P o d).mcr = s.mcr := 
  (State.flashStep_mcr P s.settle o d).trans (State.settle_mcr s)
@[simp] theorem State.flashWrite_inputs (o : Offset) (d : Byte) : (s.flashWrite P o d).inputs = s.inputs := 
  (State.flashStep_inputs P s.settle o d).trans (State.settle_inputs s)
@[simp] theorem State.flashWrite_out (o : Offset) (d : Byte) : (s.flashWrite P o d).out = s.out := 
  (State.flashStep_out P s.settle o d).trans (State.settle_out s)
@[simp] theorem State.flashWrite_draws (o : Offset) (d : Byte) : (s.flashWrite P o d).draws = s.draws := 
  (State.flashStep_draws P s.settle o d).trans (State.settle_draws s)
@[simp] theorem State.flashWrite_ramByte (o : Offset) (d : Byte) (k : Nat) : (s.flashWrite P o d).ramByte P k = s.ramByte P k := 
  (State.flashStep_ramByte P s.settle o d k).trans (State.settle_ramByte P s k)

/-! ### flashRead -/

/-- All that a ROM read can change. -/
theorem State.flashRead_shape (o : Offset) :
    ∃ q a m r, s.flashRead P o = { s with seq := q, active := a, tmask := m, out := r } := by
  unfold State.flashRead
  split_ifs <;> exact ⟨_, _, _, _, rfl⟩

@[simp] theorem State.flashRead_now (o : Offset) : (s.flashRead P o).now = s.now := by
  obtain ⟨_, _, _, _, h⟩ := s.flashRead_shape P o; rw [h]
@[simp] theorem State.flashRead_pr (o : Offset) : (s.flashRead P o).pr = s.pr := by
  obtain ⟨_, _, _, _, h⟩ := s.flashRead_shape P o; rw [h]
@[simp] theorem State.flashRead_pe (o : Offset) : (s.flashRead P o).pe = s.pe := by
  obtain ⟨_, _, _, _, h⟩ := s.flashRead_shape P o; rw [h]
@[simp] theorem State.flashRead_rom (o : Offset) : (s.flashRead P o).rom = s.rom := by
  obtain ⟨_, _, _, _, h⟩ := s.flashRead_shape P o; rw [h]
@[simp] theorem State.flashRead_romErased (o : Offset) : (s.flashRead P o).romErased = s.romErased := by
  obtain ⟨_, _, _, _, h⟩ := s.flashRead_shape P o; rw [h]
@[simp] theorem State.flashRead_ram (o : Offset) : (s.flashRead P o).ram = s.ram := by
  obtain ⟨_, _, _, _, h⟩ := s.flashRead_shape P o; rw [h]
@[simp] theorem State.flashRead_deadline (o : Offset) : (s.flashRead P o).deadline = s.deadline := by
  obtain ⟨_, _, _, _, h⟩ := s.flashRead_shape P o; rw [h]
@[simp] theorem State.flashRead_buf (o : Offset) : (s.flashRead P o).buf = s.buf := by
  obtain ⟨_, _, _, _, h⟩ := s.flashRead_shape P o; rw [h]
@[simp] theorem State.flashRead_rd (o : Offset) : (s.flashRead P o).rd = s.rd := by
  obtain ⟨_, _, _, _, h⟩ := s.flashRead_shape P o; rw [h]
@[simp] theorem State.flashRead_wr (o : Offset) : (s.flashRead P o).wr = s.wr := by
  obtain ⟨_, _, _, _, h⟩ := s.flashRead_shape P o; rw [h]
@[simp] theorem State.flashRead_avail (o : Offset) : (s.flashRead P o).avail = s.avail := by
  obtain ⟨_, _, _, _, h⟩ := s.flashRead_shape P o; rw [h]
@[simp] theorem State.flashRead_last (o : Offset) : (s.flashRead P o).last = s.last := by
  obtain ⟨_, _, _, _, h⟩ := s.flashRead_shape P o; rw [h]
@[simp] theorem State.flashRead_nextSample (o : Offset) : (s.flashRead P o).nextSample = s.nextSample := by
  obtain ⟨_, _, _, _, h⟩ := s.flashRead_shape P o; rw [h]
@[simp] theorem State.flashRead_volume (o : Offset) : (s.flashRead P o).volume = s.volume := by
  obtain ⟨_, _, _, _, h⟩ := s.flashRead_shape P o; rw [h]
@[simp] theorem State.flashRead_captureOn (o : Offset) : (s.flashRead P o).captureOn = s.captureOn := by
  obtain ⟨_, _, _, _, h⟩ := s.flashRead_shape P o; rw [h]
@[simp] theorem State.flashRead_capture (o : Offset) : (s.flashRead P o).capture = s.capture := by
  obtain ⟨_, _, _, _, h⟩ := s.flashRead_shape P o; rw [h]
@[simp] theorem State.flashRead_mcr (o : Offset) : (s.flashRead P o).mcr = s.mcr := by
  obtain ⟨_, _, _, _, h⟩ := s.flashRead_shape P o; rw [h]
@[simp] theorem State.flashRead_inputs (o : Offset) : (s.flashRead P o).inputs = s.inputs := by
  obtain ⟨_, _, _, _, h⟩ := s.flashRead_shape P o; rw [h]
@[simp] theorem State.flashRead_draws (o : Offset) : (s.flashRead P o).draws = s.draws := by
  obtain ⟨_, _, _, _, h⟩ := s.flashRead_shape P o; rw [h]
@[simp] theorem State.flashRead_ramByte (o : Offset) (k : Nat) : (s.flashRead P o).ramByte P k = s.ramByte P k := by
  obtain ⟨_, _, _, _, h⟩ := s.flashRead_shape P o; rw [h]; rfl
@[simp] theorem State.flashRead_romByte (o : Offset) (k : Nat) : (s.flashRead P o).romByte P k = s.romByte P k := by
  obtain ⟨_, _, _, _, h⟩ := s.flashRead_shape P o; rw [h]; rfl
@[simp] theorem State.flashRead_romUnlisted (o : Offset) : (s.flashRead P o).romUnlisted P = s.romUnlisted P := by
  obtain ⟨_, _, _, _, h⟩ := s.flashRead_shape P o; rw [h]; rfl

/-! ### videoRead -/

@[simp] theorem State.videoRead_now (a : Addr) (o : Offset) : (s.videoRead P a o).now = s.now := by unfold State.videoRead; split_ifs <;> rfl
@[simp] theorem State.videoRead_pr (a : Addr) (o : Offset) : (s.videoRead P a o).pr = s.pr := by unfold State.videoRead; split_ifs <;> rfl
@[simp] theorem State.videoRead_pe (a : Addr) (o : Offset) : (s.videoRead P a o).pe = s.pe := by unfold State.videoRead; split_ifs <;> rfl
@[simp] theorem State.videoRead_rom (a : Addr) (o : Offset) : (s.videoRead P a o).rom = s.rom := by unfold State.videoRead; split_ifs <;> rfl
@[simp] theorem State.videoRead_romErased (a : Addr) (o : Offset) : (s.videoRead P a o).romErased = s.romErased := by unfold State.videoRead; split_ifs <;> rfl
@[simp] theorem State.videoRead_ram (a : Addr) (o : Offset) : (s.videoRead P a o).ram = s.ram := by unfold State.videoRead; split_ifs <;> rfl
@[simp] theorem State.videoRead_seq (a : Addr) (o : Offset) : (s.videoRead P a o).seq = s.seq := by unfold State.videoRead; split_ifs <;> rfl
@[simp] theorem State.videoRead_active (a : Addr) (o : Offset) : (s.videoRead P a o).active = s.active := by unfold State.videoRead; split_ifs <;> rfl
@[simp] theorem State.videoRead_deadline (a : Addr) (o : Offset) : (s.videoRead P a o).deadline = s.deadline := by unfold State.videoRead; split_ifs <;> rfl
@[simp] theorem State.videoRead_tmask (a : Addr) (o : Offset) : (s.videoRead P a o).tmask = s.tmask := by unfold State.videoRead; split_ifs <;> rfl
@[simp] theorem State.videoRead_buf (a : Addr) (o : Offset) : (s.videoRead P a o).buf = s.buf := by unfold State.videoRead; split_ifs <;> rfl
@[simp] theorem State.videoRead_rd (a : Addr) (o : Offset) : (s.videoRead P a o).rd = s.rd := by unfold State.videoRead; split_ifs <;> rfl
@[simp] theorem State.videoRead_wr (a : Addr) (o : Offset) : (s.videoRead P a o).wr = s.wr := by unfold State.videoRead; split_ifs <;> rfl
@[simp] theorem State.videoRead_avail (a : Addr) (o : Offset) : (s.videoRead P a o).avail = s.avail := by unfold State.videoRead; split_ifs <;> rfl
@[simp] theorem State.videoRead_last (a : Addr) (o : Offset) : (s.videoRead P a o).last = s.last := by unfold State.videoRead; split_ifs <;> rfl
@[simp] theorem State.videoRead_nextSample (a : Addr) (o : Offset) : (s.videoRead P a o).nextSample = s.nextSample := by unfold State.videoRead; split_ifs <;> rfl
@[simp] theorem State.videoRead_volume (a : Addr) (o : Offset) : (s.videoRead P a o).volume = s.volume := by unfold State.videoRead; split_ifs <;> rfl
@[simp] theorem State.videoRead_captureOn (a : Addr) (o : Offset) : (s.videoRead P a o).captureOn = s.captureOn := by unfold State.videoRead; split_ifs <;> rfl
@[simp] theorem State.videoRead_capture (a : Addr) (o : Offset) : (s.videoRead P a o).capture = s.capture := by unfold State.videoRead; split_ifs <;> rfl
@[simp] theorem State.videoRead_mcr (a : Addr) (o : Offset) : (s.videoRead P a o).mcr = s.mcr := by unfold State.videoRead; split_ifs <;> rfl
@[simp] theorem State.videoRead_inputs (a : Addr) (o : Offset) : (s.videoRead P a o).inputs = s.inputs := by unfold State.videoRead; split_ifs <;> rfl
@[simp] theorem State.videoRead_ramByte (a : Addr) (o : Offset) (k : Nat) : (s.videoRead P a o).ramByte P k = s.ramByte P k := by unfold State.videoRead; split_ifs <;> rfl
@[simp] theorem State.videoRead_romByte (a : Addr) (o : Offset) (k : Nat) : (s.videoRead P a o).romByte P k = s.romByte P k := by unfold State.videoRead; split_ifs <;> rfl
@[simp] theorem State.videoRead_romUnlisted (a : Addr) (o : Offset) : (s.videoRead P a o).romUnlisted P = s.romUnlisted P := by unfold State.videoRead; split_ifs <;> rfl

/-! ### videoWrite -/

@[simp] theorem State.videoWrite_now (a : Addr) (o : Offset) (d : Byte) : (s.videoWrite P a o d).now = s.now := by unfold State.videoWrite; split_ifs <;> rfl
@[simp] theorem State.videoWrite_pr (a : Addr) (o : Offset) (d : Byte) : (s.videoWrite P a o d).pr = s.pr := by unfold State.videoWrite; split_ifs <;> rfl
@[simp] theorem State.videoWrite_pe (a : Addr) (o : Offset) (d : Byte) : (s.videoWrite P a o d).pe = s.pe := by unfold State.videoWrite; split_ifs <;> rfl
@[simp] theorem State.videoWrite_rom (a : Addr) (o : Offset) (d : Byte) : (s.videoWrite P a o d).rom = s.rom := by unfold State.videoWrite; split_ifs <;> rfl
@[simp] theorem State.videoWrite_romErased (a : Addr) (o : Offset) (d : Byte) : (s.videoWrite P a o d).romErased = s.romErased := by unfold State.videoWrite; split_ifs <;> rfl
@[simp] theorem State.videoWrite_ram (a : Addr) (o : Offset) (d : Byte) : (s.videoWrite P a o d).ram = s.ram := by unfold State.videoWrite; split_ifs <;> rfl
@[simp] theorem State.videoWrite_seq (a : Addr) (o : Offset) (d : Byte) : (s.videoWrite P a o d).seq = s.seq := by unfold State.videoWrite; split_ifs <;> rfl
@[simp] theorem State.videoWrite_active (a : Addr) (o : Offset) (d : Byte) : (s.videoWrite P a o d).active = s.active := by unfold State.videoWrite; split_ifs <;> rfl
@[simp] theorem State.videoWrite_deadline (a : Addr) (o : Offset) (d : Byte) : (s.videoWrite P a o d).deadline = s.deadline := by unfold State.videoWrite; split_ifs <;> rfl
@[simp] theorem State.videoWrite_tmask (a : Addr) (o : Offset) (d : Byte) : (s.videoWrite P a o d).tmask = s.tmask := by unfold State.videoWrite; split_ifs <;> rfl
@[simp] theorem State.videoWrite_buf (a : Addr) (o : Offset) (d : Byte) : (s.videoWrite P a o d).buf = s.buf := by unfold State.videoWrite; split_ifs <;> rfl
@[simp] theorem State.videoWrite_rd (a : Addr) (o : Offset) (d : Byte) : (s.videoWrite P a o d).rd = s.rd := by unfold State.videoWrite; split_ifs <;> rfl
@[simp] theorem State.videoWrite_wr (a : Addr) (o : Offset) (d : Byte) : (s.videoWrite P a o d).wr = s.wr := by unfold State.videoWrite; split_ifs <;> rfl
@[simp] theorem State.videoWrite_avail (a : Addr) (o : Offset) (d : Byte) : (s.videoWrite P a o d).avail = s.avail := by unfold State.videoWrite; split_ifs <;> rfl
@[simp] theorem State.videoWrite_last (a : Addr) (o : Offset) (d : Byte) : (s.videoWrite P a o d).last = s.last := by unfold State.videoWrite; split_ifs <;> rfl
@[simp] theorem State.videoWrite_nextSample (a : Addr) (o : Offset) (d : Byte) : (s.videoWrite P a o d).nextSample = s.nextSample := by unfold State.videoWrite; split_ifs <;> rfl
@[simp] theorem State.videoWrite_volume (a : Addr) (o : Offset) (d : Byte) : (s.videoWrite P a o d).volume = s.volume := by unfold State.videoWrite; split_ifs <;> rfl
@[simp] theorem State.videoWrite_captureOn (a : Addr) (o : Offset) (d : Byte) : (s.videoWrite P a o d).captureOn = s.captureOn := by unfold State.videoWrite; split_ifs <;> rfl
@[simp] theorem State.videoWrite_capture (a : Addr) (o : Offset) (d : Byte) : (s.videoWrite P a o d).capture = s.capture := by unfold State.videoWrite; split_ifs <;> rfl
@[simp] theorem State.videoWrite_mcr (a : Addr) (o : Offset) (d : Byte) : (s.videoWrite P a o d).mcr = s.mcr := by unfold State.videoWrite; split_ifs <;> rfl
@[simp] theorem State.videoWrite_inputs (a : Addr) (o : Offset) (d : Byte) : (s.videoWrite P a o d).inputs = s.inputs := by unfold State.videoWrite; split_ifs <;> rfl
@[simp] theorem State.videoWrite_draws (a : Addr) (o : Offset) (d : Byte) : (s.videoWrite P a o d).draws = s.draws := by unfold State.videoWrite; split_ifs <;> rfl
@[simp] theorem State.videoWrite_ramByte (a : Addr) (o : Offset) (d : Byte) (k : Nat) : (s.videoWrite P a o d).ramByte P k = s.ramByte P k := by unfold State.videoWrite; split_ifs <;> rfl
@[simp] theorem State.videoWrite_romByte (a : Addr) (o : Offset) (d : Byte) (k : Nat) : (s.videoWrite P a o d).romByte P k = s.romByte P k := by unfold State.videoWrite; split_ifs <;> rfl
@[simp] theorem State.videoWrite_romUnlisted (a : Addr) (o : Offset) (d : Byte) : (s.videoWrite P a o d).romUnlisted P = s.romUnlisted P := by unfold State.videoWrite; split_ifs <;> rfl

/-! ### readAt -/

/-- All that a memory read can change. -/
theorem State.readAt_shape (a : Addr) (r : Region × Offset) :
    ∃ q b m x n, s.readAt P a r = { s with seq := q, active := b, tmask := m, out := x, draws := n } := by
  unfold State.readAt State.videoRead
  split
  · exact ⟨_, _, _, _, _, rfl⟩
  · split_ifs <;> exact ⟨_, _, _, _, _, rfl⟩
  · obtain ⟨q, b, m, x, h⟩ := s.flashRead_shape P r.2
    exact ⟨q, b, m, x, s.draws, h⟩

@[simp] theorem State.readAt_now (a : Addr) (r : Region × Offset) : (s.readAt P a r).now = s.now := by
  obtain ⟨_, _, _, _, _, h⟩ := s.readAt_shape P a r; rw [h]
@[simp] theorem State.readAt_pr (a : Addr) (r : Region × Offset) : (s.readAt P a r).pr = s.pr := by
  obtain ⟨_, _, _, _, _, h⟩ := s.readAt_shape P a r; rw [h]
@[simp] theorem State.readAt_pe (a : Addr) (r : Region × Offset) : (s.readAt P a r).pe = s.pe := by
  obtain ⟨_, _, _, _, _, h⟩ := s.readAt_shape P a r; rw [h]
@[simp] theorem State.readAt_rom (a : Addr) (r : Region × Offset) : (s.readAt P a r).rom = s.rom := by
  obtain ⟨_, _, _, _, _, h⟩ := s.readAt_shape P a r; rw [h]
@[simp] theorem State.readAt_romErased (a : Addr) (r : Region × Offset) : (s.readAt P a r).romErased = s.romErased := by
  obtain ⟨_, _, _, _, _, h⟩ := s.readAt_shape P a r; rw [h]
@[simp] theorem State.readAt_ram (a : Addr) (r : Region × Offset) : (s.readAt P a r).ram = s.ram := by
  obtain ⟨_, _, _, _, _, h⟩ := s.readAt_shape P a r; rw [h]
@[simp] theorem State.readAt_deadline (a : Addr) (r : Region × Offset) : (s.readAt P a r).deadline = s.deadline := by
  obtain ⟨_, _, _, _, _, h⟩ := s.readAt_shape P a r; rw [h]
@[simp] theorem State.readAt_buf (a : Addr) (r : Region × Offset) : (s.readAt P a r).buf = s.buf := by
  obtain ⟨_, _, _, _, _, h⟩ := s.readAt_shape P a r; rw [h]
@[simp] theorem State.readAt_rd (a : Addr) (r : Region × Offset) : (s.readAt P a r).rd = s.rd := by
  obtain ⟨_, _, _, _, _, h⟩ := s.readAt_shape P a r; rw [h]
@[simp] theorem State.readAt_wr (a : Addr) (r : Region × Offset) : (s.readAt P a r).wr = s.wr := by
  obtain ⟨_, _, _, _, _, h⟩ := s.readAt_shape P a r; rw [h]
@[simp] theorem State.readAt_avail (a : Addr) (r : Region × Offset) : (s.readAt P a r).avail = s.avail := by
  obtain ⟨_, _, _, _, _, h⟩ := s.readAt_shape P a r; rw [h]
@[simp] theorem State.readAt_last (a : Addr) (r : Region × Offset) : (s.readAt P a r).last = s.last := by
  obtain ⟨_, _, _, _, _, h⟩ := s.readAt_shape P a r; rw [h]
@[simp] theorem State.readAt_nextSample (a : Addr) (r : Region × Offset) : (s.readAt P a r).nextSample = s.nextSample := by
  obtain ⟨_, _, _, _, _, h⟩ := s.readAt_shape P a r; rw [h]
@[simp] theorem State.readAt_volume (a : Addr) (r : Region × Offset) : (s.readAt P a r).volume = s.volume := by
  obtain ⟨_, _, _, _, _, h⟩ := s.readAt_shape P a r; rw [h]
@[simp] theorem State.readAt_captureOn (a : Addr) (r : Region × Offset) : (s.readAt P a r).captureOn = s.captureOn := by
  obtain ⟨_, _, _, _, _, h⟩ := s.readAt_shape P a r; rw [h]
@[simp] theorem State.readAt_capture (a : Addr) (r : Region × Offset) : (s.readAt P a r).capture = s.capture := by
  obtain ⟨_, _, _, _, _, h⟩ := s.readAt_shape P a r; rw [h]
@[simp] theorem State.readAt_mcr (a : Addr) (r : Region × Offset) : (s.readAt P a r).mcr = s.mcr := by
  obtain ⟨_, _, _, _, _, h⟩ := s.readAt_shape P a r; rw [h]
@[simp] theorem State.readAt_inputs (a : Addr) (r : Region × Offset) : (s.readAt P a r).inputs = s.inputs := by
  obtain ⟨_, _, _, _, _, h⟩ := s.readAt_shape P a r; rw [h]
@[simp] theorem State.readAt_ramByte (a : Addr) (r : Region × Offset) (k : Nat) : (s.readAt P a r).ramByte P k = s.ramByte P k := by
  obtain ⟨_, _, _, _, _, h⟩ := s.readAt_shape P a r; rw [h]; rfl
@[simp] theorem State.readAt_romByte (a : Addr) (r : Region × Offset) (k : Nat) : (s.readAt P a r).romByte P k = s.romByte P k := by
  obtain ⟨_, _, _, _, _, h⟩ := s.readAt_shape P a r; rw [h]; rfl
@[simp] theorem State.readAt_romUnlisted (a : Addr) (r : Region × Offset) : (s.readAt P a r).romUnlisted P = s.romUnlisted P := by
  obtain ⟨_, _, _, _, _, h⟩ := s.readAt_shape P a r; rw [h]; rfl

/-! ### writeAt -/

/-- All that a memory write can change. -/
theorem State.writeAt_shape (a : Addr) (r : Region × Offset) (d : Byte) :
    ∃ k m e q b t x, s.writeAt P a r d =
      { s with ram := k, rom := m, romErased := e, seq := q, active := b, deadline := t, out := x } := by
  unfold State.writeAt State.videoWrite
  split
  · exact ⟨_, _, _, _, _, _, _, rfl⟩
  · split_ifs <;> exact ⟨_, _, _, _, _, _, _, rfl⟩
  · obtain ⟨m, e, q, b, t, h⟩ := s.settle.flashStep_shape P r.2 d
    refine ⟨s.ram, m, e, q, b, t, s.out, ?_⟩
    unfold State.flashWrite
    rw [h]
    unfold State.settle
    split_ifs <;> rfl

@[simp] theorem State.writeAt_now (a : Addr) (r : Region × Offset) (d : Byte) : (s.writeAt P a r d).now = s.now := by
  obtain ⟨_, _, _, _, _, _, _, h⟩ := s.writeAt_shape P a r d; rw [h]
@[simp] theorem State.writeAt_pr (a : Addr) (r : Region × Offset) (d : Byte) : (s.writeAt P a r d).pr = s.pr := by
  obtain ⟨_, _, _, _, _, _, _, h⟩ := s.writeAt_shape P a r d; rw [h]
@[simp] theorem State.writeAt_pe (a : Addr) (r : Region × Offset) (d : Byte) : (s.writeAt P a r d).pe = s.pe := by
  obtain ⟨_, _, _, _, _, _, _, h⟩ := s.writeAt_shape P a r d; rw [h]
@[simp] theorem State.writeAt_tmask (a : Addr) (r : Region × Offset) (d : Byte) : (s.writeAt P a r d).tmask = s.tmask := by
  obtain ⟨_, _, _, _, _, _, _, h⟩ := s.writeAt_shape P a r d; rw [h]
@[simp] theorem State.writeAt_buf (a : Addr) (r : Region × Offset) (d : Byte) : (s.writeAt P a r d).buf = s.buf := by
  obtain ⟨_, _, _, _, _, _, _, h⟩ := s.writeAt_shape P a r d; rw [h]
@[simp] theorem State.writeAt_rd (a : Addr) (r : Region × Offset) (d : Byte) : (s.writeAt P a r d).rd = s.rd := by
  obtain ⟨_, _, _, _, _, _, _, h⟩ := s.writeAt_shape P a r d; rw [h]
@[simp] theorem State.writeAt_wr (a : Addr) (r : Region × Offset) (d : Byte) : (s.writeAt P a r d).wr = s.wr := by
  obtain ⟨_, _, _, _, _, _, _, h⟩ := s.writeAt_shape P a r d; rw [h]
@[simp] theorem State.writeAt_avail (a : Addr) (r : Region × Offset) (d : Byte) : (s.writeAt P a r d).avail = s.avail := by
  obtain ⟨_, _, _, _, _, _, _, h⟩ := s.writeAt_shape P a r d; rw [h]
@[simp] theorem State.writeAt_last (a : Addr) (r : Region × Offset) (d : Byte) : (s.writeAt P a r d).last = s.last := by
  obtain ⟨_, _, _, _, _, _, _, h⟩ := s.writeAt_shape P a r d; rw [h]
@[simp] theorem State.writeAt_nextSample (a : Addr) (r : Region × Offset) (d : Byte) : (s.writeAt P a r d).nextSample = s.nextSample := by
  obtain ⟨_, _, _, _, _, _, _, h⟩ := s.writeAt_shape P a r d; rw [h]
@[simp] theorem State.writeAt_volume (a : Addr) (r : Region × Offset) (d : Byte) : (s.writeAt P a r d).volume = s.volume := by
  obtain ⟨_, _, _, _, _, _, _, h⟩ := s.writeAt_shape P a r d; rw [h]
@[simp] theorem State.writeAt_captureOn (a : Addr) (r : Region × Offset) (d : Byte) : (s.writeAt P a r d).captureOn = s.captureOn := by
  obtain ⟨_, _, _, _, _, _, _, h⟩ := s.writeAt_shape P a r d; rw [h]
@[simp] theorem State.writeAt_capture (a : Addr) (r : Region × Offset) (d : Byte) : (s.writeAt P a r d).capture = s.capture := by
  obtain ⟨_, _, _, _, _, _, _, h⟩ := s.writeAt_shape P a r d; rw [h]
@[simp] theorem State.writeAt_mcr (a : Addr) (r : Region × Offset) (d : Byte) : (s.writeAt P a r d).mcr = s.mcr := by
  obtain ⟨_, _, _, _, _, _, _, h⟩ := s.writeAt_shape P a r d; rw [h]
@[simp] theorem State.writeAt_inputs (a : Addr) (r : Region × Offset) (d : Byte) : (s.writeAt P a r d).inputs = s.inputs := by
  obtain ⟨_, _, _, _, _, _, _, h⟩ := s.writeAt_shape P a r d; rw [h]
@[simp] theorem State.writeAt_draws (a : Addr) (r : Region × Offset) (d : Byte) : (s.writeAt P a r d).draws = s.draws := by
  obtain ⟨_, _, _, _, _, _, _, h⟩ := s.writeAt_shape P a r d; rw [h]

/-! ### snapshot -/

@[simp] theorem State.snapshot_now (r : Region × Offset) : (s.snapshot P r).now = s.now := by unfold State.snapshot; split <;> rfl
@[simp] theorem State.snapshot_pr (r : Region × Offset) : (s.snapshot P r).pr = s.pr := by unfold State.snapshot; split <;> rfl
@[simp] theorem State.snapshot_pe (r : Region × Offset) : (s.snapshot P r).pe = s.pe := by unfold State.snapshot; split <;> rfl
@[simp] theorem State.snapshot_rom (r : Region × Offset) : (s.snapshot P r).rom = s.rom := by unfold State.snapshot; split <;> rfl
@[simp] theorem State.snapshot_romErased (r : Region × Offset) : (s.snapshot P r).romErased = s.romErased := by unfold State.snapshot; split <;> rfl
@[simp] theorem State.snapshot_ram (r : Region × Offset) : (s.snapshot P r).ram = s.ram := by unfold State.snapshot; split <;> rfl
@[simp] theorem State.snapshot_seq (r : Region × Offset) : (s.snapshot P r).seq = s.seq := by unfold State.snapshot; split <;> rfl
@[simp] theorem State.snapshot_active (r : Region × Offset) : (s.snapshot P r).active = s.active := by unfold State.snapshot; split <;> rfl
@[simp] theorem State.snapshot_deadline (r : Region × Offset) : (s.snapshot P r).deadline = s.deadline := by unfold State.snapshot; split <;> rfl
@[simp] theorem State.snapshot_tmask (r : Region × Offset) : (s.snapshot P r).tmask = s.tmask := by unfold State.snapshot; split <;> rfl
@[simp] theorem State.snapshot_buf (r : Region × Offset) : (s.snapshot P r).buf = s.buf := by unfold State.snapshot; split <;> rfl
@[simp] theorem State.snapshot_rd (r : Region × Offset) : (s.snapshot P r).rd = s.rd := by unfold State.snapshot; split <;> rfl
@[simp] theorem State.snapshot_wr (r : Region × Offset) : (s.snapshot P r).wr = s.wr := by unfold State.snapshot; split <;> rfl
@[simp] theorem State.snapshot_avail (r : Region × Offset) : (s.snapshot P r).avail = s.avail := by unfold State.snapshot; split <;> rfl
@[simp] theorem State.snapshot_last (r : Region × Offset) : (s.snapshot P r).last = s.last := by unfold State.snapshot; split <;> rfl
@[simp] theorem State.snapshot_nextSample (r : Region × Offset) : (s.snapshot P r).nextSample = s.nextSample := by unfold State.snapshot; split <;> rfl
@[simp] theorem State.snapshot_volume (r : Region × Offset) : (s.snapshot P r).volume = s.volume := by unfold State.snapshot; split <;> rfl
@[simp] theorem State.snapshot_captureOn (r : Region × Offset) : (s.snapshot P r).captureOn = s.captureOn := by unfold State.snapshot; split <;> rfl
@[simp] theorem State.snapshot_capture (r : Region × Offset) : (s.snapshot P r).capture = s.capture := by unfold State.snapshot; split <;> rfl
@[simp] theorem State.snapshot_mcr (r : Region × Offset) : (s.snapshot P r).mcr = s.mcr := by unfold State.snapshot; split <;> rfl
@[simp] theorem State.snapshot_inputs (r : Region × Offset) : (s.snapshot P r).inputs = s.inputs := by unfold State.snapshot; split <;> rfl
@[simp] theorem State.snapshot_ramByte (r : Region × Offset) (k : Nat) : (s.snapshot P r).ramByte P k = s.ramByte P k := by unfold State.snapshot; split <;> rfl
@[simp] theorem State.snapshot_romByte (r : Region × Offset) (k : Nat) : (s.snapshot P r).romByte P k = s.romByte P k := by unfold State.snapshot; split <;> rfl
@[simp] theorem State.snapshot_romUnlisted (r : Region × Offset) : (s.snapshot P r).romUnlisted P = s.romUnlisted P := by unfold State.snapshot; split <;> rfl

/-! ### pushSample -/

@[simp] theorem State.pushSample_now (x : Sample) : (s.pushSample P x).now = s.now := by unfold State.pushSample; split_ifs <;> rfl
@[simp] theorem State.pushSample_pr (x : Sample) : (s.pushSample P x).pr = s.pr := by unfold State.pushSample; split_ifs <;> rfl
@[simp] theorem State.pushSample_pe (x : Sample) : (s.pushSample P x).pe = s.pe := by unfold State.pushSample; split_ifs <;> rfl
@[simp] theorem State.pushSample_rom (x : Sample) : (s.pushSample P x).rom = s.rom := by unfold State.pushSample; split_ifs <;> rfl
@[simp] theorem State.pushSample_romErased (x : Sample) : (s.pushSample P x).romErased = s.romErased := by unfold State.pushSample; split_ifs <;> rfl
@[simp] theorem State.pushSample_ram (x : Sample) : (s.pushSample P x).ram = s.ram := by unfold State.pushSample; split_ifs <;> rfl
@[simp] theorem State.pushSample_seq (x : Sample) : (s.pushSample P x).seq = s.seq := by unfold State.pushSample; split_ifs <;> rfl
@[simp] theorem State.pushSample_active (x : Sample) : (s.pushSample P x).active = s.active := by unfold State.pushSample; split_ifs <;> rfl
@[simp] theorem State.pushSample_deadline (x : Sample) : (s.pushSample P x).deadline = s.deadline := by unfold State.pushSample; split_ifs <;> rfl
@[simp] theorem State.pushSample_tmask (x : Sample) : (s.pushSample P x).tmask = s.tmask := by unfold State.pushSample; split_ifs <;> rfl
@[simp] theorem State.pushSample_rd (x : Sample) : (s.pushSample P x).rd = s.rd := by unfold State.pushSample; split_ifs <;> rfl
@[simp] theorem State.pushSample_last (x : Sample) : (s.pushSample P x).last = s.last := by unfold State.pushSample; split_ifs <;> rfl
@[simp] theorem State.pushSample_nextSample (x : Sample) : (s.pushSample P x).nextSample = s.nextSample := by unfold State.pushSample; split_ifs <;> rfl
@[simp] theorem State.pushSample_volume (x : Sample) : (s.pushSample P x).volume = s.volume := by unfold State.pushSample; split_ifs <;> rfl
@[simp] theorem State.pushSample_captureOn (x : Sample) : (s.pushSample P x).captureOn = s.captureOn := by unfold State.pushSample; split_ifs <;> rfl
@[simp] theorem State.pushSample_capture (x : Sample) : (s.pushSample P x).capture = s.capture := by unfold State.pushSample; split_ifs <;> rfl
@[simp] theorem State.pushSample_mcr (x : Sample) : (s.pushSample P x).mcr = s.mcr := by unfold State.pushSample; split_ifs <;> rfl
@[simp] theorem State.pushSample_inputs (x : Sample) : (s.pushSample P x).inputs = s.inputs := by unfold State.pushSample; split_ifs <;> rfl
@[simp] theorem State.pushSample_out (x : Sample) : (s.pushSample P x).out = s.out := by unfold State.pushSample; split_ifs <;> rfl
@[simp] theorem State.pushSample_draws (x : Sample) : (s.pushSample P x).draws = s.draws := by unfold State.pushSample; split_ifs <;> rfl
@[simp] theorem State.pushSample_ramByte (x : Sample) (k : Nat) : (s.pushSample P x).ramByte P k = s.ramByte P k := by unfold State.pushSample; split_ifs <;> rfl
@[simp] theorem State.pushSample_romByte (x : Sample) (k : Nat) : (s.pushSample P x).romByte P k = s.romByte P k := by unfold State.pushSample; split_ifs <;> rfl
@[simp] theorem State.pushSample_romUnlisted (x : Sample) : (s.pushSample P x).romUnlisted P = s.romUnlisted P := by unfold State.pushSample; split_ifs <;> rfl

/-! ### sampleAudio -/

/-- All that AUDIO_SAMPLE can change. -/
theorem State.sampleAudio_shape :
    ∃ b w n t, s.sampleAudio P = { s with buf := b, wr := w, avail := n, nextSample := t } := by
  unfold State.sampleAudio State.pushSample
  split_ifs <;> exact ⟨_, _, _, _, rfl⟩

@[simp] theorem State.sampleAudio_now : (s.sampleAudio P).now = s.now := by
  obtain ⟨_, _, _, _, h⟩ := s.sampleAudio_shape P; rw [h]
@[simp] theorem State.sampleAudio_pr : (s.sampleAudio P).pr = s.pr := by
  obtain ⟨_, _, _, _, h⟩ := s.sampleAudio_shape P; rw [h]
@[simp] theorem State.sampleAudio_pe : (s.sampleAudio P).pe = s.pe := by
  obtain ⟨_, _, _, _, h⟩ := s.sampleAudio_shape P; rw [h]
@[simp] theorem State.sampleAudio_rom : (s.sampleAudio P).rom = s.rom := by
  obtain ⟨_, _, _, _, h⟩ := s.sampleAudio_shape P; rw [h]
@[simp] theorem State.sampleAudio_romErased : (s.sampleAudio P).romErased = s.romErased := by
  obtain ⟨_, _, _, _, h⟩ := s.sampleAudio_shape P; rw [h]
@[simp] theorem State.sampleAudio_ram : (s.sampleAudio P).ram = s.ram := by
  obtain ⟨_, _, _, _, h⟩ := s.sampleAudio_shape P; rw [h]
@[simp] theorem State.sampleAudio_seq : (s.sampleAudio P).seq = s.seq := by
  obtain ⟨_, _, _, _, h⟩ := s.sampleAudio_shape P; rw [h]
@[simp] theorem State.sampleAudio_active : (s.sampleAudio P).active = s.active := by
  obtain ⟨_, _, _, _, h⟩ := s.sampleAudio_shape P; rw [h]
@[simp] theorem State.sampleAudio_deadline : (s.sampleAudio P).deadline = s.deadline := by
  obtain ⟨_, _, _, _, h⟩ := s.sampleAudio_shape P; rw [h]
@[simp] theorem State.sampleAudio_tmask : (s.sampleAudio P).tmask = s.tmask := by
  obtain ⟨_, _, _, _, h⟩ := s.sampleAudio_shape P; rw [h]
@[simp] theorem State.sampleAudio_rd : (s.sampleAudio P).rd = s.rd := by
  obtain ⟨_, _, _, _, h⟩ := s.sampleAudio_shape P; rw [h]
@[simp] theorem State.sampleAudio_last : (s.sampleAudio P).last = s.last := by
  obtain ⟨_, _, _, _, h⟩ := s.sampleAudio_shape P; rw [h]
@[simp] theorem State.sampleAudio_volume : (s.sampleAudio P).volume = s.volume := by
  obtain ⟨_, _, _, _, h⟩ := s.sampleAudio_shape P; rw [h]
@[simp] theorem State.sampleAudio_captureOn : (s.sampleAudio P).captureOn = s.captureOn := by
  obtain ⟨_, _, _, _, h⟩ := s.sampleAudio_shape P; rw [h]
@[simp] theorem State.sampleAudio_capture : (s.sampleAudio P).capture = s.capture := by
  obtain ⟨_, _, _, _, h⟩ := s.sampleAudio_shape P; rw [h]
@[simp] theorem State.sampleAudio_mcr : (s.sampleAudio P).mcr = s.mcr := by
  obtain ⟨_, _, _, _, h⟩ := s.sampleAudio_shape P; rw [h]
@[simp] theorem State.sampleAudio_inputs : (s.sampleAudio P).inputs = s.inputs := by
  obtain ⟨_, _, _, _, h⟩ := s.sampleAudio_shape P; rw [h]
@[simp] theorem State.sampleAudio_out : (s.sampleAudio P).out = s.out := by
  obtain ⟨_, _, _, _, h⟩ := s.sampleAudio_shape P; rw [h]
@[simp] theorem State.sampleAudio_draws : (s.sampleAudio P).draws = s.draws := by
  obtain ⟨_, _, _, _, h⟩ := s.sampleAudio_shape P; rw [h]
@[simp] theorem State.sampleAudio_ramByte (k : Nat) : (s.sampleAudio P).ramByte P k = s.ramByte P k := by
  obtain ⟨_, _, _, _, h⟩ := s.sampleAudio_shape P; rw [h]; rfl
@[simp] theorem State.sampleAudio_romByte (k : Nat) : (s.sampleAudio P).romByte P k = s.romByte P k := by
  obtain ⟨_, _, _, _, h⟩ := s.sampleAudio_shape P; rw [h]; rfl
@[simp] theorem State.sampleAudio_romUnlisted : (s.sampleAudio P).romUnlisted P = s.romUnlisted P := by
  obtain ⟨_, _, _, _, h⟩ := s.sampleAudio_shape P; rw [h]; rfl

/-! ### endTick -/

@[simp] theorem State.endTick_now : (s.endTick P).now = s.now := State.sampleAudio_now P s
@[simp] theorem State.endTick_pr : (s.endTick P).pr = s.pr := State.sampleAudio_pr P s
@[simp] theorem State.endTick_pe : (s.endTick P).pe = s.pe := State.sampleAudio_pe P s
@[simp] theorem State.endTick_rom : (s.endTick P).rom = s.rom := State.sampleAudio_rom P s
@[simp] theorem State.endTick_romErased : (s.endTick P).romErased = s.romErased := State.sampleAudio_romErased P s
@[simp] theorem State.endTick_ram : (s.endTick P).ram = s.ram := State.sampleAudio_ram P s
@[simp] theorem State.endTick_seq : (s.endTick P).seq = s.seq := State.sampleAudio_seq P s
@[simp] theorem State.endTick_active : (s.endTick P).active = s.active := State.sampleAudio_active P s
@[simp] theorem State.endTick_deadline : (s.endTick P).deadline = s.deadline := State.sampleAudio_deadline P s
@[simp] theorem State.endTick_tmask : (s.endTick P).tmask = s.tmask := State.sampleAudio_tmask P s
@[simp] theorem State.endTick_rd : (s.endTick P).rd = s.rd := State.sampleAudio_rd P s
@[simp] theorem State.endTick_last : (s.endTick P).last = s.last := State.sampleAudio_last P s
@[simp] theorem State.endTick_volume : (s.endTick P).volume = s.volume := State.sampleAudio_volume P s
@[simp] theorem State.endTick_captureOn : (s.endTick P).captureOn = s.captureOn := State.sampleAudio_captureOn P s
@[simp] theorem State.endTick_capture : (s.endTick P).capture = s.capture := State.sampleAudio_capture P s
@[simp] theorem State.endTick_mcr : (s.endTick P).mcr = s.mcr := State.sampleAudio_mcr P s
@[simp] theorem State.endTick_inputs : (s.endTick P).inputs = s.inputs := State.sampleAudio_inputs P s
@[simp] theorem State.endTick_out : (s.endTick P).out = s.out := State.sampleAudio_out P s
@[simp] theorem State.endTick_draws : (s.endTick P).draws = s.draws := State.sampleAudio_draws P s
@[simp] theorem State.endTick_ramByte (k : Nat) : (s.endTick P).ramByte P k = s.ramByte P k := State.sampleAudio_ramByte P s k
@[simp] theorem State.endTick_romByte (k : Nat) : (s.endTick P).romByte P k = s.romByte P k := State.sampleAudio_romByte P s k
@[simp] theorem State.endTick_romUnlisted : (s.endTick P).romUnlisted P = s.romUnlisted P := State.sampleAudio_romUnlisted P s

/-! ### idleTicks -/

/-- One idle tick more, at the end. -/
theorem State.idleTicks_succ (n : Nat) : s.idleTicks P (n + 1) = ((s.idleTicks P n).beginTick P).endTick P := by
  induction n generalizing s with
  | zero => rfl
  | succ n ih => exact ih ((s.beginTick P).endTick P)

theorem State.idleTicks_now (n : Nat) : (s.idleTicks P n).now = s.now + n * P.clockCyclePs := by
  induction n with
  | zero => simp [State.idleTicks]
  | succ n ih => rw [State.idleTicks_succ, State.endTick_now, State.beginTick_now, ih, Nat.add_mul, Nat.one_mul, Nat.add_assoc]

@[simp] theorem State.idleTicks_pr (n : Nat) : (s.idleTicks P n).pr = s.pr := by
  induction n generalizing s with
  | zero => rfl
  | succ n ih => exact (ih _).trans (State.endTick_pr P _)
@[simp] theorem State.idleTicks_pe (n : Nat) : (s.idleTicks P n).pe = s.pe := by
  induction n generalizing s with
  | zero => rfl
  | succ n ih => exact (ih _).trans (State.endTick_pe P _)
@[simp] theorem State.idleTicks_rom (n : Nat) : (s.idleTicks P n).rom = s.rom := by
  induction n generalizing s with
  | zero => rfl
  | succ n ih => exact (ih _).trans (State.endTick_rom P _)
@[simp] theorem State.idleTicks_romErased (n : Nat) : (s.idleTicks P n).romErased = s.romErased := by
  induction n generalizing s with
  | zero => rfl
  | succ n ih => exact (ih _).trans (State.endTick_romErased P _)
@[simp] theorem State.idleTicks_ram (n : Nat) : (s.idleTicks P n).ram = s.ram := by
  induction n generalizing s with
  | zero => rfl
  | succ n ih => exact (ih _).trans (State.endTick_ram P _)
@[simp] theorem State.idleTicks_seq (n : Nat) : (s.idleTicks P n).seq = s.seq := by
  induction n generalizing s with
  | zero => rfl
  | succ n ih => exact (ih _).trans (State.endTick_seq P _)
@[simp] theorem State.idleTicks_active (n : Nat) : (s.idleTicks P n).active = s.active := by
  induction n generalizing s with
  | zero => rfl
  | succ n ih => exact (ih _).trans (State.endTick_active P _)
@[simp] theorem State.idleTicks_deadline (n : Nat) : (s.idleTicks P n).deadline = s.deadline := by
  induction n generalizing s with
  | zero => rfl
  | succ n ih => exact (ih _).trans (State.endTick_deadline P _)
@[simp] theorem State.idleTicks_tmask (n : Nat) : (s.idleTicks P n).tmask = s.tmask := by
  induction n generalizing s with
  | zero => rfl
  | succ n ih => exact (ih _).trans (State.endTick_tmask P _)
@[simp] theorem State.idleTicks_rd (n : Nat) : (s.idleTicks P n).rd = s.rd := by
  induction n generalizing s with
  | zero => rfl
  | succ n ih => exact (ih _).trans (State.endTick_rd P _)
@[simp] theorem State.idleTicks_last (n : Nat) : (s.idleTicks P n).last = s.last := by
  induction n generalizing s with
  | zero => rfl
  | succ n ih => exact (ih _).trans (State.endTick_last P _)
@[simp] theorem State.idleTicks_volume (n : Nat) : (s.idleTicks P n).volume = s.volume := by
  induction n generalizing s with
  | zero => rfl
  | succ n ih => exact (ih _).trans (State.endTick_volume P _)
@[simp] theorem State.idleTicks_captureOn (n : Nat) : (s.idleTicks P n).captureOn = s.captureOn := by
  induction n generalizing s with
  | zero => rfl
  | succ n ih => exact (ih _).trans (State.endTick_captureOn P _)
@[simp] theorem State.idleTicks_capture (n : Nat) : (s.idleTicks P n).capture = s.capture := by
  induction n generalizing s with
  | zero => rfl
  | succ n ih => exact (ih _).trans (State.endTick_capture P _)
@[simp] theorem State.idleTicks_mcr (n : Nat) : (s.idleTicks P n).mcr = s.mcr := by
  induction n generalizing s with
  | zero => rfl
  | succ n ih => exact (ih _).trans (State.endTick_mcr P _)
@[simp] theorem State.idleTicks_inputs (n : Nat) : (s.idleTicks P n).inputs = s.inputs := by
  induction n generalizing s with
  | zero => rfl
  | succ n ih => exact (ih _).trans (State.endTick_inputs P _)
@[simp] theorem State.idleTicks_out (n : Nat) : (s.idleTicks P n).out = s.out := by
  induction n generalizing s with
  | zero => rfl
  | succ n ih => exact (ih _).trans (State.endTick_out P _)
@[simp] theorem State.idleTicks_draws (n : Nat) : (s.idleTicks P n).draws = s.draws := by
  induction n generalizing s with
  | zero => rfl
  | succ n ih => exact (ih _).trans (State.endTick_draws P _)
@[simp] theorem State.idleTicks_ramByte (n : Nat) (k : Nat) : (s.idleTicks P n).ramByte P k = s.ramByte P k := by
  induction n generalizing s with
  | zero => rfl
  | succ n ih => exact (ih _).trans (State.endTick_ramByte P _ k)
@[simp] theorem State.idleTicks_romByte (n : Nat) (k : Nat) : (s.idleTicks P n).romByte P k = s.romByte P k := by
  induction n generalizing s with
  | zero => rfl
  | succ n ih => exact (ih _).trans (State.endTick_romByte P _ k)
@[simp] theorem State.idleTicks_romUnlisted (n : Nat) : (s.idleTicks P n).romUnlisted P = s.romUnlisted P := by
  induction n generalizing s with
  | zero => rfl
  | succ n ih => exact (ih _).trans (State.endTick_romUnlisted P _)

/-! ### popSamples -/

@[simp] theorem State.popSamples_now (n : Nat) : ((State.popSamples P n s).2).now = s.now := by
  induction n generalizing s with
  | zero => rfl
  | succ n ih => exact ih _
@[simp] theorem State.popSamples_pr (n : Nat) : ((State.popSamples P n s).2).pr = s.pr := by
  induction n generalizing s with
  | zero => rfl
  | succ n ih => exact ih _
@[simp] theorem State.popSamples_pe (n : Nat) : ((State.popSamples P n s).2).pe = s.pe := by
  induction n generalizing s with
  | zero => rfl
  | succ n ih => exact ih _
@[simp] theorem State.popSamples_rom (n : Nat) : ((State.popSamples P n s).2).rom = s.rom := by
  induction n generalizing s with
  | zero => rfl
  | succ n ih => exact ih _
@[simp] theorem State.popSamples_romErased (n : Nat) : ((State.popSamples P n s).2).romErased = s.romErased := by
  induction n generalizing s with
  | zero => rfl
  | succ n ih => exact ih _
@[simp] theorem State.popSamples_ram (n : Nat) : ((State.popSamples P n s).2).ram = s.ram := by
  induction n generalizing s with
  | zero => rfl
  | succ n ih => exact ih _
@[simp] theorem State.popSamples_seq (n : Nat) : ((State.popSamples P n s).2).seq = s.seq := by
  induction n generalizing s with
  | zero => rfl
  | succ n ih => exact ih _
@[simp] theorem State.popSamples_active (n : Nat) : ((State.popSamples P n s).2).active = s.active := by
  induction n generalizing s with
  | zero => rfl
  | succ n ih => exact ih _
@[simp] theorem State.popSamples_deadline (n : Nat) : ((State.popSamples P n s).2).deadline = s.deadline := by
  induction n generalizing s with
  | zero => rfl
  | succ n ih => exact ih _
@[simp] theorem State.popSamples_tmask (n : Nat) : ((State.popSamples P n s).2).tmask = s.tmask := by
  induction n generalizing s with
  | zero => rfl
  | succ n ih => exact ih _
@[simp] theorem State.popSamples_buf (n : Nat) : ((State.popSamples P n s).2).buf = s.buf := by
  induction n generalizing s with
  | zero => rfl
  | succ n ih => exact ih _
@[simp] theorem State.popSamples_wr (n : Nat) : ((State.popSamples P n s).2).wr = s.wr := by
  induction n generalizing s with
  | zero => rfl
  | succ n ih => exact ih _
@[simp] theorem State.popSamples_nextSample (n : Nat) : ((State.popSamples P n s).2).nextSample = s.nextSample := by
  induction n generalizing s with
  | zero => rfl
  | succ n ih => exact ih _
@[simp] theorem State.popSamples_volume (n : Nat) : ((State.popSamples P n s).2).volume = s.volume := by
  induction n generalizing s with
  | zero => rfl
  | succ n ih => exact ih _
@[simp] theorem State.popSamples_captureOn (n : Nat) : ((State.popSamples P n s).2).captureOn = s.captureOn := by
  induction n generalizing s with
  | zero => rfl
  | succ n ih => exact ih _
@[simp] theorem State.popSamples_mcr (n : Nat) : ((State.popSamples P n s).2).mcr = s.mcr := by
  induction n generalizing s with
  | zero => rfl
  | succ n ih => exact ih _
@[simp] theorem State.popSamples_inputs (n : Nat) : ((State.popSamples P n s).2).inputs = s.inputs := by
  induction n generalizing s with
  | zero => rfl
  | succ n ih => exact ih _
@[simp] theorem State.popSamples_out (n : Nat) : ((State.popSamples P n s).2).out = s.out := by
  induction n generalizing s with
  | zero => rfl
  | succ n ih => exact ih _
@[simp] theorem State.popSamples_draws (n : Nat) : ((State.popSamples P n s).2).draws = s.draws := by
  induction n generalizing s with
  | zero => rfl
  | succ n ih => exact ih _
@[simp] theorem State.popSamples_ramByte (n : Nat) (k : Nat) : ((State.popSamples P n s).2).ramByte P k = s.ramByte P k := by
  induction n generalizing s with
  | zero => rfl
  | succ n ih => exact ih _
@[simp] theorem State.popSamples_romByte (n : Nat) (k : Nat) : ((State.popSamples P n s).2).romByte P k = s.romByte P k := by
  induction n generalizing s with
  | zero => rfl
  | succ n ih => exact ih _
@[simp] theorem State.popSamples_romUnlisted (n : Nat) : ((State.popSamples P n s).2).romUnlisted P = s.romUnlisted P := by
  induction n generalizing s with
  | zero => rfl
  | succ n ih => exact ih _

end Sys2Proof.Machine
end

