-- ==== Sys2Proof/Laws/Audio.lean ====
section
/-! SUPPORT. The ring buffer as a bounded first-in first-out queue, the sample schedule, and the width of samples. -/

namespace Sys2Proof.Machine

variable (s : State)

theorem audioCap_pos : 0 < Config.params.audioCap := Nat.succ_pos _

theorem clock_pos : 0 < Config.params.clockCyclePs := Nat.succ_pos _

theorem period_pos : 0 < Config.params.samplePeriodPs := by
  have := clock_pos; unfold Params.samplePeriodPs; omega

theorem clock_le_period : Config.params.clockCyclePs ≤ Config.params.samplePeriodPs := Nat.le_add_right _ _

/-! ### The undelivered samples -/

@[simp] theorem State.undelivered_length : s.undelivered.length = s.avail := by simp [State.undelivered]

theorem State.undelivered_congr {s t : State} (hb : t.buf = s.buf) (hr : t.rd = s.rd) (ha : t.avail = s.avail) :
    t.undelivered = s.undelivered := by simp [State.undelivered, hb, hr, ha]

theorem RingOk.congr {s t : State} (h : RingOk s) (hr : SameRing s t) : RingOk t := by
  obtain ⟨hb, hrd, hw, ha⟩ := hr
  exact ⟨by rw [hb]; exact h.length, by rw [ha]; exact h.count, by rw [hrd]; exact h.cursor,
    by rw [hw, hrd, ha]; exact h.gap⟩

/-- AUDIO_PUSH with room appends to the undelivered samples. -/
theorem State.pushSample_room {s : State} (h : RingOk s) (x : Sample) (room : s.avail < Config.params.audioCap) :
    RingOk (s.pushSample Config.params x) ∧
      (s.pushSample Config.params x).undelivered = s.undelivered ++ [x] := by
  have hc := audioCap_pos
  have hw : s.wr < s.buf.length := by rw [h.length, h.gap]; exact Nat.mod_lt _ hc
  unfold State.pushSample
  rw [if_pos room]
  refine ⟨⟨by simp [h.length], by simp; omega, h.cursor, ?_⟩, ?_⟩
  · show (s.wr + 1) % _ = (s.rd + (s.avail + 1)) % _
    rw [h.gap, Nat.mod_add_mod, Nat.add_assoc]
  · simp only [State.undelivered, List.range_succ, List.map_append, List.map_cons, List.map_nil]
    congr 1
    · refine List.map_congr_left fun k hk => ?_
      have hk : k < s.avail := List.mem_range.mp hk
      have hne : s.wr ≠ (s.rd + k) % Config.params.audioCap := by
        rw [h.gap]
        intro e
        have hd : (s.avail - k) % Config.params.audioCap = 0 := by
          have := (Nat.ModEq.symm e : s.rd + k ≡ s.rd + s.avail [MOD _])
          have := Nat.ModEq.add_left_cancel' s.rd this
          have := (Nat.modEq_iff_dvd' (by omega)).mp this
          exact Nat.mod_eq_zero_of_dvd this
        rw [Nat.mod_eq_of_lt (by omega)] at hd
        omega
      rw [List.getD_eq_getElem?_getD, List.getD_eq_getElem?_getD, List.getElem?_set_ne hne]
    · rw [← h.gap]
      simp [List.getD_eq_getElem?_getD, hw]

/-- AUDIO_PUSH into a full buffer changes nothing. -/
theorem State.pushSample_full {s : State} {P : Params} (x : Sample) (full : P.audioCap ≤ s.avail) :
    s.pushSample P x = s := by
  unfold State.pushSample
  rw [if_neg (by omega)]

theorem State.pushSample_ring {s : State} (h : RingOk s) (x : Sample) : RingOk (s.pushSample Config.params x) := by
  by_cases room : s.avail < Config.params.audioCap
  · exact (State.pushSample_room h x room).1
  · rw [State.pushSample_full x (by omega)]; exact h

/-- The first undelivered sample is the one the read cursor is at. -/
theorem State.undelivered_succ {s : State} (h : RingOk s) (ha : 0 < s.avail) :
    s.undelivered = s.nextOut :: (s.popSample Config.params).undelivered ∧ s.buf[s.rd]? = some s.nextOut := by
  have hr : s.rd < s.buf.length := by rw [h.length]; exact h.cursor
  have hn : s.nextOut = s.buf[s.rd] := by
    simp [State.nextOut, ha, List.getD_eq_getElem?_getD, List.getElem?_eq_getElem hr]
  refine ⟨?_, by rw [hn]; exact List.getElem?_eq_getElem hr⟩
  obtain ⟨n, hn'⟩ : ∃ n, s.avail = n + 1 := ⟨s.avail - 1, by omega⟩
  simp only [State.undelivered, State.popSample_avail, State.popSample_rd, State.popSample_buf, hn',
    Nat.add_sub_cancel, List.range_succ_eq_map, List.map_cons, List.map_map]
  congr 1
  · rw [Nat.add_zero, Nat.mod_eq_of_lt h.cursor, hn]
    simp [List.getD_eq_getElem?_getD, List.getElem?_eq_getElem hr]
  · refine List.map_congr_left fun k _ => ?_
    show s.buf.getD ((s.rd + (k + 1)) % _) 0 = s.buf.getD (((s.rd + 1) % _ + k) % _) 0
    rw [Nat.mod_add_mod, Nat.add_assoc, Nat.add_comm 1 k]

theorem State.popSample_ring {s : State} (h : RingOk s) : RingOk (s.popSample Config.params) := by
  have hc := audioCap_pos
  refine ⟨h.length, by have := h.count; simp; omega, ?_, ?_⟩
  · simp only [State.popSample_rd]
    split
    · exact Nat.mod_lt _ hc
    · exact h.cursor
  · simp only [State.popSample_rd, State.popSample_wr, State.popSample_avail]
    rw [h.gap]
    split
    · rw [Nat.mod_add_mod]; congr 1; omega
    · congr 1; omega

theorem State.popSample_undelivered {s : State} (h : RingOk s) :
    (s.popSample Config.params).undelivered = s.undelivered.tail ∧ s.nextOut = s.undelivered.headD s.last := by
  by_cases ha : 0 < s.avail
  · obtain ⟨h1, _⟩ := State.undelivered_succ h ha
    rw [h1]
    exact ⟨rfl, rfl⟩
  · have h0 : s.avail = 0 := by omega
    simp [State.undelivered, State.nextOut, h0]

/-! ### The schedule -/

theorem State.sampleAudio_due {P : Params} {s : State} (h : s.nextSample ≤ s.now) :
    s.sampleAudio P = (s.pushSample P (s.sampleNow P)).setNextSample (s.nextSample + P.samplePeriodPs) := by
  rw [State.sampleAudio, if_pos h]

theorem State.sampleAudio_early {P : Params} {s : State} (h : s.now < s.nextSample) : s.sampleAudio P = s := by
  rw [State.sampleAudio, if_neg (by omega)]

theorem State.sampleAudio_nextSample (P : Params) :
    (s.sampleAudio P).nextSample = if s.nextSample ≤ s.now then s.nextSample + P.samplePeriodPs else s.nextSample := by
  unfold State.sampleAudio
  split <;> rfl

/-- A tick attempts at most one push, exactly when a period ends in it. -/
theorem State.endTick_schedule {s u : State} (h : ScheduleOk s) (hn : u.now = s.now + Config.params.clockCyclePs)
    (hx : u.nextSample = s.nextSample) : ScheduleOk (u.endTick Config.params) := by
  have hp := period_pos
  have hc := clock_le_period
  unfold ScheduleOk at h ⊢
  simp only [State.endTick_now, hn]
  have hdm := Nat.div_add_mod s.now Config.params.samplePeriodPs
  have hlt := Nat.mod_lt s.now hp
  rw [State.endTick]
  by_cases hd : s.nextSample ≤ s.now + Config.params.clockCyclePs
  · rw [State.sampleAudio_due (by omega)]
    show u.nextSample + _ = _
    have : (s.now + Config.params.clockCyclePs) / Config.params.samplePeriodPs =
        s.now / Config.params.samplePeriodPs + 1 := by
      rw [h] at hd
      refine Nat.div_eq_of_lt_le ?_ ?_
      · rw [Nat.mul_comm]; exact hd
      · have : Config.params.samplePeriodPs * (s.now / Config.params.samplePeriodPs + 1) =
          Config.params.samplePeriodPs * (s.now / Config.params.samplePeriodPs) + Config.params.samplePeriodPs := by ring
        rw [Nat.add_mul, Nat.one_mul, Nat.mul_comm _ Config.params.samplePeriodPs, this]
        omega
    rw [this, hx, h]
    ring
  · rw [State.sampleAudio_early (by omega)]
    show u.nextSample = _
    have : (s.now + Config.params.clockCyclePs) / Config.params.samplePeriodPs =
        s.now / Config.params.samplePeriodPs := by
      rw [h] at hd
      refine Nat.div_eq_of_lt_le ?_ ?_
      · rw [Nat.mul_comm]; omega
      · rw [Nat.mul_comm]; omega
    rw [this, hx]
    exact h

/-! ### The width of samples -/

/-- What is cut to `SAMPLE_BITS` bits fits them. -/
theorem toSample_inRange (x : Int) : Config.params.inRange (Config.params.toSample x) := by
  unfold Params.toSample
  exact ⟨BitVec.le_toInt _, BitVec.toInt_lt⟩

end Sys2Proof.Machine
end

