-- ==== Sys2Proof/Laws/Flash.lean ====
section
/-! SUPPORT. The sequencer: what a ROM write does in each state code, and what the completion check does. -/

namespace Sys2Proof.Machine

variable (P : Params) (s : State) (o : Offset) (d : Byte)

theorem State.settle_of_idle (h : s.active = false) : s.settle = s := by
  simp [State.settle, State.operationDone, h]

theorem State.settle_of_busy (h : s.now < s.deadline) : s.settle = s := by
  simp [State.settle, State.operationDone, h]

theorem State.settle_of_done (ha : s.active = true) (h : s.deadline ≤ s.now) : s.settle = s.completeOperation := by
  simp [State.settle, State.operationDone, ha, h]

theorem State.settle_eq : s.settle = if s.active = true ∧ s.deadline ≤ s.now then s.completeOperation else s := by
  simp [State.settle, State.operationDone]

theorem State.flashStep_idle (h : s.seq = 0x00) :
    s.flashStep P o d = if isA5 P o && d == 0xAA then s.setSeq 0x01 else s.setSeq 0x00 := by
  rw [State.flashStep, if_pos h]

theorem State.flashStep_unlock1 (h : s.seq = 0x01) :
    s.flashStep P o d = if isA2 P o && d == 0x55 then s.setSeq 0x02 else s.setSeq 0x00 := by
  rw [State.flashStep, if_neg (by rw [h]; decide), if_pos h]

theorem State.flashStep_unlock2 (h : s.seq = 0x02) :
    s.flashStep P o d = if isA5 P o && d &&& 0xF0 != 0 then s.setSeq d else s.setSeq 0x00 := by
  rw [State.flashStep, if_neg (by rw [h]; decide), if_neg (by rw [h]; decide), if_pos h]

theorem State.flashStep_program (h : s.seq = 0xA0) : s.flashStep P o d = s.flashProgram P o d := by
  rw [State.flashStep, if_neg (by rw [h]; decide), if_neg (by rw [h]; decide), if_neg (by rw [h]; decide), if_pos h]

theorem State.flashStep_erase (h : s.seq = 0x80) :
    s.flashStep P o d = if isA5 P o && d == 0xAA then s.setSeq 0x81 else s.setSeq 0x00 := by
  rw [State.flashStep, if_neg (by rw [h]; decide), if_neg (by rw [h]; decide), if_neg (by rw [h]; decide),
    if_neg (by rw [h]; decide), if_pos h]

theorem State.flashStep_erase1 (h : s.seq = 0x81) :
    s.flashStep P o d = if isA2 P o && d == 0x55 then s.setSeq 0x82 else s.setSeq 0x00 := by
  rw [State.flashStep, if_neg (by rw [h]; decide), if_neg (by rw [h]; decide), if_neg (by rw [h]; decide),
    if_neg (by rw [h]; decide), if_neg (by rw [h]; decide), if_pos h]

theorem State.flashStep_erase2 (h : s.seq = 0x82) :
    s.flashStep P o d =
      if isA5 P o && d == 0x10 then s.flashChipErase P
      else if d = 0x30 then s.flashSectorErase P o else s.setSeq 0x00 := by
  rw [State.flashStep, if_neg (by rw [h]; decide), if_neg (by rw [h]; decide), if_neg (by rw [h]; decide),
    if_neg (by rw [h]; decide), if_neg (by rw [h]; decide), if_neg (by rw [h]; decide), if_pos h]

theorem State.flashStep_busy (h : s.seq = 0x03) : s.flashStep P o d = s := by
  rw [State.flashStep, if_neg (by rw [h]; decide), if_neg (by rw [h]; decide), if_neg (by rw [h]; decide),
    if_neg (by rw [h]; decide), if_neg (by rw [h]; decide), if_neg (by rw [h]; decide), if_neg (by rw [h]; decide),
    if_pos h]

theorem State.flashStep_unknown
    (h : s.seq ∉ [(0x00 : Byte), 0x01, 0x02, 0xA0, 0x80, 0x81, 0x82, 0x03]) : s.flashStep P o d = s.setSeq 0x00 := by
  simp only [List.mem_cons, List.not_mem_nil, or_false, not_or] at h
  obtain ⟨h0, h1, h2, h3, h4, h5, h6, h7⟩ := h
  rw [State.flashStep, if_neg h0, if_neg h1, if_neg h2, if_neg h3, if_neg h4, if_neg h5, if_neg h6, if_neg h7]

theorem State.flashWrite_of_idle (h : s.active = false) : s.flashWrite P o d = s.flashStep P o d := by
  rw [State.flashWrite, s.settle_of_idle h]

theorem isA5_iff : isA5 P o = true ↔ o &&& P.cmdAddrMask = 0x05555 &&& P.cmdAddrMask := by simp [isA5]

theorem isA2_iff : isA2 P o = true ↔ o &&& P.cmdAddrMask = 0x02AAA &&& P.cmdAddrMask := by simp [isA2]

/-- The high-nibble test of R116, in numbers. -/
theorem highNibble_iff : (d &&& 0xF0 != 0) = true ↔ 16 ≤ d.toNat := by
  revert d; decide

/-- All that can happen to ROM in a ROM write: a byte-program from state 0xA0, an erase from state 0x82, or nothing. -/
theorem State.flashStep_rom (h : s.seq ≠ 0xA0) (h' : s.seq ≠ 0x82) :
    (s.flashStep P o d).rom = s.rom ∧ (s.flashStep P o d).romErased = s.romErased ∧
      (s.flashStep P o d).deadline = s.deadline ∧ (s.flashStep P o d).active = s.active := by
  unfold State.flashStep
  rw [if_neg h, if_neg h']
  by_cases h0 : s.seq = 0x00
  · rw [if_pos h0]; split <;> exact ⟨rfl, rfl, rfl, rfl⟩
  rw [if_neg h0]
  by_cases h1 : s.seq = 0x01
  · rw [if_pos h1]; split <;> exact ⟨rfl, rfl, rfl, rfl⟩
  rw [if_neg h1]
  by_cases h2 : s.seq = 0x02
  · rw [if_pos h2]; split <;> exact ⟨rfl, rfl, rfl, rfl⟩
  rw [if_neg h2]
  by_cases h3 : s.seq = 0x80
  · rw [if_pos h3]; split <;> exact ⟨rfl, rfl, rfl, rfl⟩
  rw [if_neg h3]
  by_cases h4 : s.seq = 0x81
  · rw [if_pos h4]; split <;> exact ⟨rfl, rfl, rfl, rfl⟩
  rw [if_neg h4]
  by_cases h5 : s.seq = 0x03
  · rw [if_pos h5]; exact ⟨rfl, rfl, rfl, rfl⟩
  rw [if_neg h5]
  exact ⟨rfl, rfl, rfl, rfl⟩

end Sys2Proof.Machine
end

