-- ==== Sys2Proof/Laws/Decode.lean ====
section
/-! SUPPORT. The fields of a flash write word, which row of the command map takes it, and the numbers behind the fields of an
address and of a page byte. -/

namespace Sys2Proof

variable (mask : Offset) (code : Byte) (o : Offset) (d : Byte)

/-- A flash write word as a number (`30_encoding.md` R86). -/
theorem flashWordOf_toNat : (flashWordOf code o d).toNat = code.toNat * 2 ^ 27 + o.toNat * 2 ^ 8 + d.toNat := by
  simp only [flashWordOf, BitVec.toNat_append]
  rw [← Nat.shiftLeft_add_eq_or_of_lt o.isLt, ← Nat.shiftLeft_add_eq_or_of_lt d.isLt]
  simp only [Nat.shiftLeft_eq]
  ring

@[simp] theorem fwCode_word : fwCode (flashWordOf code o d) = code := by
  apply BitVec.eq_of_toNat_eq
  simp only [fwCode, BitVec.extractLsb'_toNat, flashWordOf_toNat, Nat.shiftRight_eq_div_pow]
  omega

@[simp] theorem fwOff_word : fwOff (flashWordOf code o d) = o := by
  apply BitVec.eq_of_toNat_eq
  simp only [fwOff, BitVec.extractLsb'_toNat, flashWordOf_toNat, Nat.shiftRight_eq_div_pow]
  omega

@[simp] theorem fwData_word : fwData (flashWordOf code o d) = d := by
  apply BitVec.eq_of_toNat_eq
  simp only [fwData, BitVec.extractLsb'_toNat, flashWordOf_toNat, Nat.shiftRight_eq_div_pow]
  omega

/-- Every word is the flash write word of its three fields. -/
theorem flashWordOf_fields (w : BitVec 35) : flashWordOf (fwCode w) (fwOff w) (fwData w) = w := by
  apply BitVec.eq_of_toNat_eq
  simp only [flashWordOf_toNat, fwCode, fwOff, fwData, BitVec.extractLsb'_toNat, Nat.shiftRight_eq_div_pow]
  omega

theorem offsetMatches_eq (target : Offset) : offsetMatches mask o target = matchesCommand mask o target := by
  unfold offsetMatches matchesCommand
  by_cases h : o = target
  · simp [h]
  · simp [h]

/-- The first row that takes a flash write word, as a chain of tests on its fields (`30_encoding.md` R87). -/
theorem decodeFlashWith_word :
    decodeFlashWith mask (flashWordOf code o d) =
      if code == 0x00 && matchesCommand mask o addrA5 && d == 0xAA then .flashUnlock1 o
      else if code == 0x01 && matchesCommand mask o addrA2 && d == 0x55 then .flashUnlock2 o
      else if code == 0x02 && matchesCommand mask o addrA5 && d &&& 0xF0 == 0 then
        .flashResetCommand o (d.extractLsb' 0 4)
      else if code == 0x02 && matchesCommand mask o addrA5 then .flashCmd o d
      else if code == 0xA0 then .flashProgram o d
      else if code == 0x80 && matchesCommand mask o addrA5 && d == 0xAA then .flashEraseUnlock1 o
      else if code == 0x81 && matchesCommand mask o addrA2 && d == 0x55 then .flashEraseUnlock2 o
      else if code == 0x82 && matchesCommand mask o addrA5 && d == 0x10 then .flashChipErase o
      else if code == 0x82 && d == 0x30 then .flashSectorErase o
      else if code == 0x03 then .flashBusyIgnore o d
      else .flashReset code o d := by
  have ff : ∀ b : Byte, b &&& 0xFF = b := by decide
  have zz : (d &&& 0 == (0 : Byte)) = true := by simp
  have sw : ∀ a b c : Bool, (a && b && c) = (a && c && b) := by decide
  simp only [decodeFlashWith, fwRows, firstRow, rowTakes, fwCode_word, fwOff_word, fwData_word, ff, zz, Bool.and_true,
    offsetMatches_eq]
  simp only [sw (code == 0x00), sw (code == 0x01), sw (code == 0x02), sw (code == 0x80), sw (code == 0x81),
    sw (code == 0x82) (d == 0x10)]
  rfl

/-! ### Event words, port bytes and page bytes -/

/-- An event word as a number (`30_encoding.md` R93). -/
theorem eventWord_toNat (k : BitVec 4) (a : BitVec 16) (d : Byte) :
    (eventWord k a d).toNat = k.toNat * 2 ^ 28 + a.toNat * 2 ^ 8 + d.toNat := by
  simp only [eventWord, BitVec.toNat_append]
  rw [← Nat.shiftLeft_add_eq_or_of_lt d.isLt, ← Nat.shiftLeft_add_eq_or_of_lt a.isLt]
  simp only [Nat.shiftLeft_eq]
  simp
  ring

/-- The fields of an event word. -/
theorem eventWord_fields (k : BitVec 4) (a : BitVec 16) (d : Byte) :
    (eventWord k a d).extractLsb' 28 4 = k ∧ (eventWord k a d).extractLsb' 24 4 = 0#4 ∧
      (eventWord k a d).extractLsb' 8 16 = a ∧ (eventWord k a d).extractLsb' 0 8 = d := by
  refine ⟨?_, ?_, ?_, ?_⟩ <;> apply BitVec.eq_of_toNat_eq <;>
    simp only [BitVec.extractLsb'_toNat, eventWord_toNat, Nat.shiftRight_eq_div_pow, BitVec.toNat_ofNat] <;> omega

/-- The fields of an event word that carries a port byte. -/
theorem eventWord_port (k : BitVec 4) (port d : Byte) :
    (eventWord k (0#8 ++ port) d).extractLsb' 8 8 = port ∧ (eventWord k (0#8 ++ port) d).extractLsb' 16 8 = 0#8 := by
  constructor <;> apply BitVec.eq_of_toNat_eq <;>
    simp only [BitVec.extractLsb'_toNat, eventWord_toNat, Nat.shiftRight_eq_div_pow, BitVec.toNat_append,
      BitVec.toNat_ofNat] <;> simp <;> omega

/-- The decoder on an event word built from its fields. -/
theorem decodeEventWith_word (nib : BitVec 4) (k : BitVec 4) (a : BitVec 16) (d : Byte) (hk : k = 0 ∨ k = 1 ∨ k = 2 ∨ k = 5) :
    decodeEventWith nib (eventWord k a d) =
      if k = 0 then if d = 0 then some (.act (.idleTick a.toNat)) else none
      else if k = 1 then if d = 0 then some (.bus [.memRead a]) else none
      else if k = 2 then some (.bus [.memWrite a d])
      else if d = 0 then some (.act (.audioCallback a.toNat)) else none := by
  obtain ⟨e1, e2, e3, e4⟩ := eventWord_fields k a d
  simp only [decodeEventWith, e1, e2, e3, e4]
  rcases hk with rfl | rfl | rfl | rfl <;> simp

/-- The decoder on an event word that carries a port byte. -/
theorem decodeEventWith_port (nib : BitVec 4) (wr : Bool) (port d : Byte) (h : wr = false → d = 0) :
    decodeEventWith nib (eventWord (if wr then 4 else 3) (0#8 ++ port) d) = some (.bus [decodePort nib wr port d]) := by
  obtain ⟨e1, e2, e3, e4⟩ := eventWord_fields (if wr then 4 else 3) (0#8 ++ port) d
  obtain ⟨e5, e6⟩ := eventWord_port (if wr then 4 else 3) port d
  simp only [decodeEventWith, e1, e2, e4, e5, e6]
  cases wr <;> simp [h]

/-- The high nibble of a port number. -/
theorem portOf_nibble (nib low : BitVec 4) : (portOf nib low).extractLsb' 4 4 = nib := by revert nib low; decide

/-- A port byte with the paging nibble is decoded by its low nibble. -/
theorem decodePort_portOf (nib low : BitVec 4) (wr : Bool) (d : Byte) :
    decodePort nib wr (portOf nib low) d = decodePagingPort wr low d := by
  have h1 := portOf_nibble nib low
  have h2 : (portOf nib low).extractLsb' 0 4 = low := by revert nib low; decide
  simp only [decodePort, h1, h2, if_true]

/-- Going one to fifteen nibbles round never comes back to the start. -/
theorem nibble_gap_ne (n : BitVec 4) (g : Fin 15) : n + 1 + BitVec.ofNat 4 g.val ≠ n := by revert n g; decide

/-- The keyboard's and the UART's ports are not the block's (`30_encoding.md` R84, `60_exceptions.md` R162). -/
theorem Params.otherNibbles_ne (P : Params) :
    P.keyboardNibble ≠ P.pagingPortNibble ∧ P.uartNibble ≠ P.pagingPortNibble :=
  ⟨nibble_gap_ne _ _, nibble_gap_ne _ _⟩

/-- A port byte with another nibble is not the block's. -/
theorem decodePort_other (nib other low : BitVec 4) (wr : Bool) (d : Byte) (h : other ≠ nib) :
    decodePort nib wr (portOf other low) d = .ioOther wr (portOf other low) d := by
  rw [decodePort, if_neg (by rw [portOf_nibble]; exact h)]

/-- The decoder on a page byte built from its class and bank. -/
theorem decodePage_pageByteOf (cls : BitVec 3) (bank : BitVec 5) (lo : BitVec 14) :
    decodePage (pageByteOf cls bank) lo =
      if cls = 1 then .translateRam bank lo else if cls = 2 then .translateVideo bank lo
      else .translateRom cls bank lo := by
  have h1 : pageByteOf cls bank &&& 0xE0 = 0x20 ↔ cls = 1 := by revert cls bank; decide
  have h2 : pageByteOf cls bank &&& 0xE0 = 0x40 ↔ cls = 2 := by revert cls bank; decide
  have h3 : bankOf (pageByteOf cls bank) = bank := by revert cls bank; decide
  have h4 : classOf (pageByteOf cls bank) = cls := by revert cls bank; decide
  simp only [decodePage, h1, h2, h3, h4]

/-! ### The numbers behind the fields of an address and of a page byte -/

namespace Machine

theorem quadrantOf_eq_ofNat (a : Addr) : quadrantOf a = BitVec.ofNat 2 (a.toNat / 0x4000) := by
  apply BitVec.eq_of_toNat_eq
  simp [quadrantOf, Nat.shiftRight_eq_div_pow]

theorem pagedOffset_toNat (p : Byte) (a : Addr) :
    (pagedOffset p a).toNat = p.toNat % 32 * 0x4000 + a.toNat % 0x4000 := by
  simp only [pagedOffset, bankOf, lowOf, BitVec.toNat_append, BitVec.extractLsb'_toNat, Nat.shiftRight_zero]
  rw [← Nat.shiftLeft_add_eq_or_of_lt (by omega)]
  simp [Nat.shiftLeft_eq]

theorem unpagedOffset_toNat (a : Addr) : (unpagedOffset a).toNat = a.toNat % 0x4000 := by
  simp [unpagedOffset, lowOf]; omega

/-- The region of a page byte by its class as a number (`30_encoding.md` R78). -/
theorem regionOf_eq (p : Byte) :
    regionOf p = if p.toNat / 32 = 1 then .ram else if p.toNat / 32 = 2 then .video else .rom := by
  have hr : p &&& 0xE0 = 0x20 ↔ p.toNat / 32 = 1 := by revert p; decide
  have hv : p &&& 0xE0 = 0x40 ↔ p.toNat / 32 = 2 := by revert p; decide
  simp only [regionOf, hr, hv]

/-- The start of a sector as a number (`41_flash.md` R121). -/
theorem sectorBase_toNat (o : Offset) : (sectorBase o).toNat = o.toNat / 4096 * 4096 := by
  have h : sectorBase o = (o >>> 12) <<< 12 := by
    unfold sectorBase
    ext i hi
    interval_cases i <;> simp
  rw [h, BitVec.toNat_shiftLeft, BitVec.toNat_ushiftRight, Nat.shiftRight_eq_div_pow, Nat.shiftLeft_eq]
  omega

/-- Translation depends on the page registers and `PE` alone (`40_paging.md` R101). -/
theorem State.translate_congr {s t : State} (h : SamePaging s t) (a : Addr) : t.translate a = s.translate a := by
  simp [State.translate, State.page, h.1, h.2]

end Machine

end Sys2Proof
end

