-- ==== Sys2Proof/Laws/Invariant.lean ====
section
/-! SUPPORT. What each shared operation does to the parts of the invariant. -/

namespace Sys2Proof.Machine

variable {s t : State}

/-! ### The sequencer's registers -/

theorem FlashOk.congr (h : FlashOk s) (hr : SameFlashRegs s t) : FlashOk t := by
  obtain ⟨hs, ha, -, hm⟩ := hr
  exact ⟨by rw [hs, ha]; exact h.busy, by rw [hs]; exact h.code, by rw [hm]; exact h.mask⟩

/-- A code below 4 that is not 3, or from 16 on, with no operation in progress. -/
theorem FlashOk.setSeq (h : FlashOk s) (hi : s.seq ≠ 0x03) {c : Byte} (hc : c ≠ 0x03) (hc' : c.toNat < 4 ∨ 16 ≤ c.toNat) :
    FlashOk (s.setSeq c) := by
  refine ⟨?_, hc', h.mask⟩
  show s.active = true ↔ c = 0x03
  simp only [h.busy, hi, hc]

theorem FlashOk.startOperation (h : FlashOk s) (l : Nat) : FlashOk (s.startOperation l) :=
  ⟨by simp, by simp, h.mask⟩

theorem FlashOk.completeOperation (h : FlashOk s) : FlashOk s.completeOperation := ⟨by simp, by simp, h.mask⟩

theorem FlashOk.settle (h : FlashOk s) : FlashOk s.settle := by
  rw [State.settle_eq]
  split
  · exact h.completeOperation
  · exact h

theorem FlashOk.flashStep (h : FlashOk s) (P : Params) (o : Offset) (d : Byte) : FlashOk (s.flashStep P o d) := by
  by_cases h0 : s.seq = 0x00
  · rw [State.flashStep_idle _ _ _ _ h0]
    split <;> exact h.setSeq (by rw [h0]; decide) (by decide) (by decide)
  by_cases h1 : s.seq = 0x01
  · rw [State.flashStep_unlock1 _ _ _ _ h1]
    split <;> exact h.setSeq (by rw [h1]; decide) (by decide) (by decide)
  by_cases h2 : s.seq = 0x02
  · rw [State.flashStep_unlock2 _ _ _ _ h2]
    split
    · rename_i hc
      have hd : 16 ≤ d.toNat := (highNibble_iff d).mp (by simp at hc; simpa using hc.2)
      exact h.setSeq (by rw [h2]; decide) (by rintro rfl; simp at hd) (.inr hd)
    · exact h.setSeq (by rw [h2]; decide) (by decide) (by decide)
  by_cases h3 : s.seq = 0xA0
  · rw [State.flashStep_program _ _ _ _ h3]
    exact (h.congr (t := s.programRom P o d) ⟨rfl, rfl, rfl, rfl⟩).startOperation _
  by_cases h4 : s.seq = 0x80
  · rw [State.flashStep_erase _ _ _ _ h4]
    split <;> exact h.setSeq (by rw [h4]; decide) (by decide) (by decide)
  by_cases h5 : s.seq = 0x81
  · rw [State.flashStep_erase1 _ _ _ _ h5]
    split <;> exact h.setSeq (by rw [h5]; decide) (by decide) (by decide)
  by_cases h6 : s.seq = 0x82
  · rw [State.flashStep_erase2 _ _ _ _ h6]
    split
    · exact (h.congr (t := s.eraseChip) ⟨rfl, rfl, rfl, rfl⟩).startOperation _
    · split
      · exact (h.congr (t := s.eraseSector P o) ⟨rfl, rfl, rfl, rfl⟩).startOperation _
      · exact h.setSeq (by rw [h6]; decide) (by decide) (by decide)
  by_cases h7 : s.seq = 0x03
  · rw [State.flashStep_busy _ _ _ _ h7]
    exact h
  · rw [State.flashStep_unknown _ _ _ _ (by simp only [List.mem_cons, List.not_mem_nil, or_false]; tauto)]
    exact h.setSeq h7 (by decide) (by decide)

theorem FlashOk.flashWrite (h : FlashOk s) (P : Params) (o : Offset) (d : Byte) : FlashOk (s.flashWrite P o d) :=
  h.settle.flashStep P o d

theorem FlashOk.flashRead (h : FlashOk s) (P : Params) (o : Offset) : FlashOk (s.flashRead P o) := by
  unfold State.flashRead
  split_ifs
  · exact h.completeOperation.congr ⟨rfl, rfl, rfl, rfl⟩
  · refine ⟨h.busy, h.code, ?_⟩
    show s.tmask ^^^ toggleFlip = _ ∨ s.tmask ^^^ toggleFlip = _
    rcases h.mask with e | e
    · exact .inr (by rw [e])
    · exact .inl (by rw [e, BitVec.xor_assoc, BitVec.xor_self, BitVec.xor_zero])
  · exact h.congr ⟨rfl, rfl, rfl, rfl⟩

/-! ### The memories -/

theorem MemoryOk.congr (h : MemoryOk s) (hr : t.rom = s.rom) (he : t.romErased = s.romErased) (hm : t.ram = s.ram) :
    MemoryOk t := by
  have hu : t.romUnlisted Config.params = s.romUnlisted Config.params := by funext o; simp only [State.romUnlisted, he]
  exact ⟨by rw [hu, hr]; exact h.rom, by rw [hm]; exact h.ram, by rw [hr]; exact h.romBound,
    by rw [hm]; exact h.ramBound⟩

/-- After reset both memories are in canonical form. -/
theorem State.reset_memory_wf :
    Memory.wf (State.reset.romUnlisted Config.params) State.reset.rom = true ∧
      Memory.wf (ramUnlisted Config.params) State.reset.ram = true := ⟨rfl, rfl⟩

theorem offset_lt_romSize (o : Offset) : o.toNat < Config.params.romSize := by
  have := o.isLt
  unfold Params.romSize reachable
  omega

theorem offset_lt_ramSize (o : Offset) : o.toNat < Config.params.ramSize := by
  have := o.isLt
  unfold Params.ramSize reachable
  omega

theorem MemoryOk.writeRam (h : MemoryOk s) (o : Offset) (d : Byte) : MemoryOk (s.writeRam Config.params o d) := by
  refine ⟨h.rom, Memory.wf_write h.ram, h.romBound, fun c hc => ?_⟩
  rcases Memory.mem_write hc with rfl | hc
  · exact offset_lt_ramSize o
  · exact h.ramBound c hc

theorem MemoryOk.programRom (h : MemoryOk s) (o : Offset) (d : Byte) : MemoryOk (s.programRom Config.params o d) := by
  refine ⟨Memory.wf_write h.rom, h.ram, fun c hc => ?_, h.ramBound⟩
  rcases Memory.mem_write hc with rfl | hc
  · exact offset_lt_romSize o
  · exact h.romBound c hc

theorem MemoryOk.eraseSector (h : MemoryOk s) (o : Offset) : MemoryOk (s.eraseSector Config.params o) := by
  refine ⟨Memory.wf_fill h.rom, h.ram, fun c hc => ?_, h.ramBound⟩
  rcases Memory.mem_fill hc with hc | ⟨h1, h2, -⟩
  · exact h.romBound c hc
  · rw [sectorBase_toNat] at h1 h2
    have := o.isLt
    unfold Params.romSize reachable
    unfold sectorSize at h2
    omega

theorem MemoryOk.eraseChip (h : MemoryOk s) : MemoryOk s.eraseChip :=
  ⟨rfl, h.ram, fun _ hc => absurd hc (by simp), h.ramBound⟩

theorem MemoryOk.startOperation (h : MemoryOk s) (l : Nat) : MemoryOk (s.startOperation l) := h.congr rfl rfl rfl

theorem MemoryOk.flashStep (h : MemoryOk s) (o : Offset) (d : Byte) : MemoryOk (s.flashStep Config.params o d) := by
  by_cases h3 : s.seq = 0xA0
  · rw [State.flashStep_program _ _ _ _ h3]
    exact (h.programRom o d).startOperation _
  by_cases h6 : s.seq = 0x82
  · rw [State.flashStep_erase2 _ _ _ _ h6]
    split
    · exact h.eraseChip.startOperation _
    · split
      · exact (h.eraseSector o).startOperation _
      · exact h.congr rfl rfl rfl
  · obtain ⟨e1, e2, -, -⟩ := State.flashStep_rom Config.params s o d h3 h6
    exact h.congr e1 e2 (by simp)

theorem MemoryOk.flashWrite (h : MemoryOk s) (o : Offset) (d : Byte) : MemoryOk (s.flashWrite Config.params o d) :=
  MemoryOk.flashStep (h.congr (by simp) (by simp) (by simp)) o d

/-! ### The samples -/

theorem SamplesOk.congr (h : SamplesOk s) (hb : t.buf = s.buf) (hl : t.last = s.last) (hc : t.capture = s.capture) :
    SamplesOk t :=
  ⟨by rw [hb]; exact h.buf, by rw [hl]; exact h.last, by rw [hc]; exact h.capture⟩

theorem SamplesOk.pushSample (h : SamplesOk s) (P : Params) {x : Sample} (hx : Config.params.inRange x) :
    SamplesOk (s.pushSample P x) := by
  unfold State.pushSample
  split
  · refine ⟨fun y hy => ?_, h.last, h.capture⟩
    rcases List.mem_or_eq_of_mem_set hy with hy | rfl
    · exact h.buf y hy
    · exact hx
  · exact h

theorem SamplesOk.nextOut (h : SamplesOk s) : Config.params.inRange s.nextOut := by
  unfold State.nextOut
  split
  · rw [List.getD_eq_getElem?_getD]
    cases e : s.buf[s.rd]? with
    | none => exact h.last
    | some y => exact h.buf y (List.mem_of_getElem? e)
  · exact h.last

theorem SamplesOk.popSample (h : SamplesOk s) (P : Params) : SamplesOk (s.popSample P) := by
  refine ⟨h.buf, h.nextOut, fun y hy => ?_⟩
  by_cases hc : s.captureOn = true
  · rw [State.popSample_capture, if_pos hc] at hy
    rcases List.mem_append.mp hy with hy | hy
    · exact h.capture y hy
    · rw [List.mem_singleton.mp hy]; exact h.nextOut
  · rw [State.popSample_capture, if_neg hc] at hy
    exact h.capture y hy

theorem SamplesOk.popSamples (n : Nat) : ∀ {s : State} (_ : SamplesOk s) (P : Params), SamplesOk (s.popSamples P n).2 := by
  induction n with
  | zero => exact fun h _ => h
  | succ n ih => exact fun h P => ih (h.popSample P) P

theorem SamplesOk.sampleAudio (h : SamplesOk s) : SamplesOk (s.sampleAudio Config.params) := by
  unfold State.sampleAudio
  split
  · exact (h.pushSample Config.params (toSample_inRange _)).congr rfl rfl rfl
  · exact h

/-! ### The ring buffer -/

theorem RingOk.sampleAudio (h : RingOk s) : RingOk (s.sampleAudio Config.params) := by
  unfold State.sampleAudio
  split
  · exact (State.pushSample_ring h _).congr ⟨rfl, rfl, rfl, rfl⟩
  · exact h

theorem RingOk.popSamples (n : Nat) : ∀ {s : State} (_ : RingOk s), RingOk (s.popSamples Config.params n).2 := by
  induction n with
  | zero => exact fun h => h
  | succ n ih => exact fun h => ih (State.popSample_ring h)

end Sys2Proof.Machine
end

