-- ==== Sys2Proof/Laws/PerInstr.lean ====
section
/-! SUPPORT. One statement for every operation, by constructor. -/

namespace Sys2Proof.Laws

/-- The move of an operation asks for that operation alone, and whether the operation has a coded form does not depend on
the paging nibble (`30_encoding.md` R95). -/
def Moves.Statement (i : Instr) : Prop :=
  (moveOf i).single = some i ∧ ∀ nib nib' : BitVec 4, (encodeWith nib i).isSome = (encodeWith nib' i).isSome

theorem Moves.flashUnlock1 (off : Offset) : Moves.Statement (.flashUnlock1 off) :=
  ⟨rfl, fun _ _ => rfl⟩

theorem Moves.flashUnlock2 (off : Offset) : Moves.Statement (.flashUnlock2 off) :=
  ⟨rfl, fun _ _ => rfl⟩

theorem Moves.flashResetCommand (off : Offset) (lo : BitVec 4) : Moves.Statement (.flashResetCommand off lo) :=
  ⟨rfl, fun _ _ => rfl⟩

theorem Moves.flashCmd (off : Offset) (d : Byte) : Moves.Statement (.flashCmd off d) :=
  ⟨rfl, fun _ _ => rfl⟩

theorem Moves.flashProgram (off : Offset) (d : Byte) : Moves.Statement (.flashProgram off d) :=
  ⟨rfl, fun _ _ => rfl⟩

theorem Moves.flashEraseUnlock1 (off : Offset) : Moves.Statement (.flashEraseUnlock1 off) :=
  ⟨rfl, fun _ _ => rfl⟩

theorem Moves.flashEraseUnlock2 (off : Offset) : Moves.Statement (.flashEraseUnlock2 off) :=
  ⟨rfl, fun _ _ => rfl⟩

theorem Moves.flashChipErase (off : Offset) : Moves.Statement (.flashChipErase off) :=
  ⟨rfl, fun _ _ => rfl⟩

theorem Moves.flashSectorErase (off : Offset) : Moves.Statement (.flashSectorErase off) :=
  ⟨rfl, fun _ _ => rfl⟩

theorem Moves.flashBusyIgnore (off : Offset) (d : Byte) : Moves.Statement (.flashBusyIgnore off d) :=
  ⟨rfl, fun _ _ => rfl⟩

theorem Moves.flashReset (code : Byte) (off : Offset) (d : Byte) : Moves.Statement (.flashReset code off d) :=
  ⟨rfl, fun _ _ => rfl⟩

theorem Moves.translateRam (bank : BitVec 5) (lo : BitVec 14) : Moves.Statement (.translateRam bank lo) :=
  ⟨rfl, fun _ _ => rfl⟩

theorem Moves.translateVideo (bank : BitVec 5) (lo : BitVec 14) : Moves.Statement (.translateVideo bank lo) :=
  ⟨rfl, fun _ _ => rfl⟩

theorem Moves.translateRom (cls : BitVec 3) (bank : BitVec 5) (lo : BitVec 14) : Moves.Statement (.translateRom cls bank lo) :=
  ⟨rfl, fun _ _ => rfl⟩

theorem Moves.memRead (a : Addr) : Moves.Statement (.memRead a) :=
  ⟨rfl, fun _ _ => rfl⟩

theorem Moves.memWrite (a : Addr) (d : Byte) : Moves.Statement (.memWrite a d) :=
  ⟨rfl, fun _ _ => rfl⟩

theorem Moves.idleTick (n : Nat) : Moves.Statement (.idleTick n) :=
  ⟨rfl, fun _ _ => rfl⟩

theorem Moves.audioCallback (n : Nat) : Moves.Statement (.audioCallback n) :=
  ⟨rfl, fun _ _ => rfl⟩

theorem Moves.outPageSelect (x : BitVec 1) (r : BitVec 2) (d : Byte) : Moves.Statement (.outPageSelect x r d) :=
  ⟨rfl, fun _ _ => rfl⟩

theorem Moves.outPagingEnable (x : BitVec 1) (y : BitVec 2) (d : Byte) : Moves.Statement (.outPagingEnable x y d) :=
  ⟨rfl, fun _ _ => rfl⟩

theorem Moves.inPaging (low : BitVec 4) : Moves.Statement (.inPaging low) :=
  ⟨rfl, fun _ _ => rfl⟩

theorem Moves.ioOther (wr : Bool) (port : Byte) (d : Byte) : Moves.Statement (.ioOther wr port d) :=
  ⟨rfl, fun _ _ => rfl⟩

theorem Moves.translate (a : Addr) : Moves.Statement (.translate a) :=
  ⟨rfl, fun _ _ => rfl⟩

theorem Moves.flashRead (o : Offset) : Moves.Statement (.flashRead o) :=
  ⟨rfl, fun _ _ => rfl⟩

theorem Moves.flashWrite (o : Offset) (d : Byte) : Moves.Statement (.flashWrite o d) :=
  ⟨rfl, fun _ _ => rfl⟩

theorem Moves.flashComplete : Moves.Statement (.flashComplete) :=
  ⟨rfl, fun _ _ => rfl⟩

theorem Moves.audioSample : Moves.Statement (.audioSample) :=
  ⟨rfl, fun _ _ => rfl⟩

theorem Moves.audioPush (x : Sample) : Moves.Statement (.audioPush x) :=
  ⟨rfl, fun _ _ => rfl⟩

theorem Moves.audioPop : Moves.Statement (.audioPop) :=
  ⟨rfl, fun _ _ => rfl⟩

theorem Moves.audioSetVolume (v : Nat) : Moves.Statement (.audioSetVolume v) :=
  ⟨rfl, fun _ _ => rfl⟩

theorem Moves.hostSetPage (i : BitVec 2) (v : Byte) : Moves.Statement (.hostSetPage i v) :=
  ⟨rfl, fun _ _ => rfl⟩

theorem Moves.hostSetPe (b : Bool) : Moves.Statement (.hostSetPe b) :=
  ⟨rfl, fun _ _ => rfl⟩

theorem Moves.hostMemWrite (p : Byte) (a : Addr) (d : Byte) : Moves.Statement (.hostMemWrite p a d) :=
  ⟨rfl, fun _ _ => rfl⟩

theorem Moves.hostMemRead (p : Byte) (a : Addr) : Moves.Statement (.hostMemRead p a) :=
  ⟨rfl, fun _ _ => rfl⟩

theorem Moves.hostCapture (b : Bool) : Moves.Statement (.hostCapture b) :=
  ⟨rfl, fun _ _ => rfl⟩

end Sys2Proof.Laws
end

