-- ==== Sys2Proof/Tests/Slice0.lean ====
section
/-! SUPPORT. Small tests of the model on the vectors of `95_test_vectors.md` and on words written out from
`30_encoding.md`, and for each statement with hypotheses a state and operands that meet them. -/

open Sys2Proof Sys2Proof.Machine

namespace Sys2Proof.Tests

/-! ### The test instance of `95_test_vectors.md`, with M = 0x80 and V = 0x9C, and small states -/

/-- The parameters of the test instance. `ROM_IMAGE` is 0xFF but for two bytes. -/
def inst : Params where
  clockExtra := 124999
  romExtra := 0
  ramExtra := 0
  romImage := fun o => if o = 0x100 then 0xC3 else if o = 0x10 then 0x3E else 0xFF
  pagingPortNibble := 7
  keyboardNibbleGap := 0
  uartNibbleGap := 14
  cmdAddrMask := 0x7FFFF
  tByteProgramPs := 500000
  tSectorErasePs := 1000000
  tChipErasePs := 2000000
  toggleMaskReset := 0x80
  videoPresent := false
  videoAbsentReadValue := 0x9C
  samplePeriodExtra := 875000
  audioCapExtra := 3
  audioMcrBit := 2
  sampleBitsExtra := 14
  audioLevelRaw := fun b v => if b then v else 0
  volumeReset := 7
  lastSampleRaw := 0
  pageReset := fun _ => 0
  ramReset := fun _ => 0x5A
  deadlineReset := 0
  bufReset := fun _ => 0
  mcrReset := 0
  freeByte := fun n => BitVec.ofNat 8 (0x30 + n)

/-- The test instance right after reset. -/
def start : State := State.resetWith inst

/-- With paging on and these page registers. -/
def mapped (p0 p1 p2 p3 : Byte) : State := { start with pe := true, pr := #v[p0, p1, p2, p3] }

/-- With the sequencer in state `c` at `now` = 625000, tick 5. -/
def coded (c : Byte) : State := { mapped 0 1 0x20 4 with seq := c, now := 625000 }

/-- A ring buffer of the test instance. -/
def ring (rd wr avail : Nat) (buf : List Sample) : State := { start with rd := rd, wr := wr, avail := avail, buf := buf }

/-- What a state shows of its ring buffer. -/
def ringOf (s : State) : Nat × Nat × Nat × Sample := (s.rd, s.wr, s.avail, s.last)

/-! ### Well-formedness: one ill-formed term for each check -/

theorem test_wf_unlock1_offset : (Instr.flashUnlock1 0x05554).wfWith 7 0x7FFFF = false := by decide

theorem test_wf_unlock2_offset : (Instr.flashUnlock2 0x05555).wfWith 7 0x7FFFF = false := by decide

theorem test_wf_reset_command_offset : (Instr.flashResetCommand 0x15555 0).wfWith 7 0x7FFFF = false := by decide

theorem test_wf_cmd_offset_and_nibble :
    (Instr.flashCmd 0x05554 0xA0).wfWith 7 0x7FFFF = false ∧ (Instr.flashCmd 0x05555 0x0F).wfWith 7 0x7FFFF = false ∧
      (Instr.flashCmd 0x05555 0x10).wfWith 7 0x7FFFF = true := by decide

theorem test_wf_erase_unlocks :
    (Instr.flashEraseUnlock1 0x02AAA).wfWith 7 0x7FFFF = false ∧
      (Instr.flashEraseUnlock2 0x05555).wfWith 7 0x7FFFF = false ∧
      (Instr.flashChipErase 0x12345).wfWith 7 0x7FFFF = false := by decide

/-- Row 11 takes none of the writes of rows 1 to 10. -/
theorem test_wf_reset_row :
    [(0x00, 0x05555, 0xAA), (0x01, 0x02AAA, 0x55), (0x02, 0x05555, 0x0F), (0x02, 0x05555, 0x90), (0xA0, 0, 0),
      (0x80, 0x05555, 0xAA), (0x81, 0x02AAA, 0x55), (0x82, 0x05555, 0x10), (0x82, 0, 0x30), (0x03, 0, 0)].all
      (fun w : Byte × Offset × Byte => !(Instr.flashReset w.1 w.2.1 w.2.2).wfWith 7 0x7FFFF) = true := by decide

theorem test_wf_translate_rom :
    (Instr.translateRom 1 0 0).wfWith 7 0x7FFFF = false ∧ (Instr.translateRom 2 0 0).wfWith 7 0x7FFFF = false := by decide

theorem test_wf_counts :
    (Instr.idleTick 65536).wfWith 7 0x7FFFF = false ∧ (Instr.audioCallback 65536).wfWith 7 0x7FFFF = false ∧
      (Instr.idleTick 65535).wfWith 7 0x7FFFF = true := by decide

theorem test_wf_other_port :
    (Instr.ioOther true 0x7C 0).wfWith 7 0x7FFFF = false ∧ (Instr.ioOther false 0x20 1).wfWith 7 0x7FFFF = false ∧
      (Instr.ioOther true 0x20 0xFF).wfWith 7 0x7FFFF = true := by decide

/-! ### Decoding: words written out from the spec -/

/-- F1 to F6. -/
theorem test_decode_unlock :
    decodeFlashWith 0x7FFFF 0x0005555AA = .flashUnlock1 0x05555 ∧
    decodeFlashWith 0x7FFFF 0x0005555AB = .flashReset 0x00 0x05555 0xAB ∧
    decodeFlashWith 0x7FFFF 0x0015555AA = .flashReset 0x00 0x15555 0xAA ∧
    decodeFlashWith 0x7FFFF 0x0082AAA55 = .flashUnlock2 0x02AAA ∧
    decodeFlashWith 0x7FFFF 0x0085555AA = .flashReset 0x01 0x05555 0xAA ∧
    decodeFlashWith 0x7FFFF 0x0082AAA00 = .flashReset 0x01 0x02AAA 0x00 := by decide

/-- F7 to F13. -/
theorem test_decode_command :
    decodeFlashWith 0x7FFFF 0x0105555A0 = .flashCmd 0x05555 0xA0 ∧
    decodeFlashWith 0x7FFFF 0x010555580 = .flashCmd 0x05555 0x80 ∧
    decodeFlashWith 0x7FFFF 0x01055550F = .flashResetCommand 0x05555 0xF ∧
    decodeFlashWith 0x7FFFF 0x010555500 = .flashResetCommand 0x05555 0 ∧
    decodeFlashWith 0x7FFFF 0x010555590 = .flashCmd 0x05555 0x90 ∧
    decodeFlashWith 0x7FFFF 0x0105554A0 = .flashReset 0x02 0x05554 0xA0 := by decide

/-- F14 to F20. -/
theorem test_decode_program_and_erase_unlock :
    decodeFlashWith 0x7FFFF 0x501000012 = .flashProgram 0x10000 0x12 ∧
    decodeFlashWith 0x7FFFF 0x507FFFF00 = .flashProgram 0x7FFFF 0x00 ∧
    decodeFlashWith 0x7FFFF 0x4005555AA = .flashEraseUnlock1 0x05555 ∧
    decodeFlashWith 0x7FFFF 0x4002AAA55 = .flashReset 0x80 0x02AAA 0x55 ∧
    decodeFlashWith 0x7FFFF 0x4082AAA55 = .flashEraseUnlock2 0x02AAA ∧
    decodeFlashWith 0x7FFFF 0x4085555AA = .flashReset 0x81 0x05555 0xAA := by decide

/-- F21 to F30. -/
theorem test_decode_erase_and_busy :
    decodeFlashWith 0x7FFFF 0x410555510 = .flashChipErase 0x05555 ∧
    decodeFlashWith 0x7FFFF 0x410555530 = .flashSectorErase 0x05555 ∧
    decodeFlashWith 0x7FFFF 0x411234510 = .flashReset 0x82 0x12345 0x10 ∧
    decodeFlashWith 0x7FFFF 0x410555550 = .flashReset 0x82 0x05555 0x50 ∧
    decodeFlashWith 0x7FFFF 0x0185555AA = .flashBusyIgnore 0x05555 0xAA ∧
    decodeFlashWith 0x7FFFF 0x4805555AA = .flashReset 0x90 0x05555 0xAA ∧
    decodeFlashWith 0x7FFFF 0x5502AAA55 = .flashReset 0xAA 0x02AAA 0x55 := by decide

/-- A narrower `CMD_ADDR_MASK` compares fewer bits (`41_flash.md` R132's example mask). -/
theorem test_decode_narrow_mask :
    decodeFlashWith 0x00FFF 0x0001555AA = .flashUnlock1 0x01555 ∧
    decodeFlashWith 0x7FFFF 0x0001555AA = .flashReset 0x00 0x01555 0xAA := by decide

/-- T9, T13, T14, T19: page bytes 0x23, 0x41, 0x61 and 0xFF. -/
theorem test_decode_page_bytes :
    decodePage 0x23 0x1ABC = .translateRam 3 0x1ABC ∧ decodePage 0x41 0x0123 = .translateVideo 1 0x0123 ∧
    decodePage 0x61 0x0123 = .translateRom 3 1 0x0123 ∧ decodePage 0xFF 0x3FFF = .translateRom 7 31 0x3FFF := by decide

/-- `30_encoding.md` R93's examples. -/
theorem test_decode_event_examples :
    decodeEventWith 7 0x205555AA = some (.bus [.memWrite 0x5555 0xAA]) ∧
    decodeEventWith 7 0x10400000 = some (.bus [.memRead 0x4000]) ∧
    decodeEventWith 7 0x40007401 = some (.bus [.outPagingEnable 0 0 0x01]) ∧
    decodeEventWith 7 0x00000300 = some (.act (.idleTick 3)) ∧
    decodeEventWith 7 0x50000200 = some (.act (.audioCallback 2)) := by decide

/-- B2, B3, B6 and B9, and an I/O read of port 0x7A: 0x30007A00. -/
theorem test_decode_ports :
    decodeEventWith 7 0x40007221 = some (.bus [.outPageSelect 0 2 0x21]) ∧
    decodeEventWith 7 0x40007BFF = some (.bus [.outPageSelect 1 3 0xFF]) ∧
    decodeEventWith 7 0x40007703 = some (.bus [.outPagingEnable 0 3 0x03]) ∧
    decodeEventWith 7 0x30007A00 = some (.bus [.inPaging 0xA]) ∧
    decodeEventWith 7 0x400020FF = some (.bus [.ioOther true 0x20 0xFF]) ∧
    decodeEventWith 7 0x30002000 = some (.bus [.ioOther false 0x20 0]) := by decide

/-- R93: kinds 6 to 15 are unused, bits 27:24 and the unused bytes are zero. -/
theorem test_decode_refuses :
    decodeEventWith 7 0x60000000 = none ∧ decodeEventWith 7 0x21000000 = none ∧ decodeEventWith 7 0x10400001 = none ∧
    decodeEventWith 7 0x40017401 = none ∧ decodeEventWith 7 0x30007001 = none := by decide

/-- The request record of R46: `mreq` alone, read and write, the ordinary ticks. -/
theorem test_decode_request_memory :
    decodeRequest 7 ⟨true, false, false, 0x4000, 0xEE⟩ = .bus [.memRead 0x4000] ∧
    decodeRequest 7 ⟨true, false, true, 0x5555, 0xAA⟩ = .bus [.memWrite 0x5555 0xAA] := by decide

/-- The request record of R46 and R47: both lines, `iorq` alone, neither. -/
theorem test_decode_request :
    decodeRequest 7 ⟨true, true, true, 0x5574, 0x01⟩ = .bus [.memWrite 0x5574 0x01, .outPagingEnable 0 0 0x01] ∧
    decodeRequest 7 ⟨false, true, false, 0x1270, 0xEE⟩ = .bus [.inPaging 0] ∧
    decodeRequest 7 ⟨false, false, true, 0, 0⟩ = .act (.idleTick 1) := by decide

/-- The encoder, on words the spec writes out. -/
theorem test_encode_words :
    encodeWith 7 (.memWrite 0x5555 0xAA) = some (.event 0x205555AA) ∧
    encodeWith 7 (.outPagingEnable 0 0 0x01) = some (.event 0x40007401) ∧
    encodeWith 7 (.audioCallback 2) = some (.event 0x50000200) ∧
    encodeWith 7 (.flashProgram 0x10000 0x12) = some (.flashWord 0x501000012) ∧
    encodeWith 7 (.flashSectorErase 0x12345) = some (.flashWord 0x411234530) := by decide

/-- The `match` words of the operation table's rows. -/
theorem test_table_words :
    decodeTableWord 35 0x0082AAA55 = some (.flashUnlock2 0x02AAA) ∧
    decodeTableWord 40 0x410555510 = some (.flashChipErase 0x05555) ∧
    decodeTableWord 8 0x20 = some (.translateRam 0 0) ∧ decodeTableWord 8 0x40 = some (.translateVideo 0 0) ∧
    decodeTableWord 8 0x04 = some (.outPagingEnable 0 0 0) ∧ decodeTableWord 32 0x20000000 = some (.memWrite 0 0) := by
  decide

/-! ### Translation -/

/-- T3, T5. -/
theorem test_translate_off : start.translate 0x4000 = (.rom, 0x00000) ∧ start.translate 0x5555 = (.rom, 0x01555) := by decide

/-- T9, T10, T12, T19, T21, T22. -/
theorem test_translate_on :
    (mapped 0 0 0x23 0).translate 0x9ABC = (.ram, 0x0DABC) ∧ (mapped 0 0 0 0x3F).translate 0xFFFF = (.ram, 0x7FFFF) ∧
    (mapped 0 0 0 0x5F).translate 0xFFFF = (.video, 0x7FFFF) ∧ (mapped 0xFF 0 0 0).translate 0x3FFF = (.rom, 0x7FFFF) ∧
    (mapped 0 0 4 0).translate 0xBFFF = (.rom, 0x13FFF) ∧ (mapped 0 0 0x24 0x24).translate 0xC000 = (.ram, 0x10000) := by
  decide

/-- T13, T14, by the rows of the table. -/
theorem test_translate_rows :
    (∃ t, exec (.translateVideo 1 0x0123) start = .next t ∧ t.out = [.translated .video 0x04123]) ∧
    (∃ t, exec (.translateRom 3 1 0x0123) start = .next t ∧ t.out = [.translated .rom 0x04123]) :=
  ⟨⟨_, rfl, by decide⟩, _, rfl, by decide⟩

/-! ### Memory requests -/

/-- A1 and A5. -/
theorem test_read :
    ({ mapped 0 0x20 0 0 with ram := [(0x10, 0x5B)] }.readAt inst 0x4010 (.ram, 0x10)).out = [.byte 0x5B] ∧
    ((mapped 0 0 0x40 0).readAt inst 0x8000 (.video, 0)).out = [.byte 0x9C] := by decide

/-- A2 and A8: the sequencer does not see a RAM write. -/
theorem test_write :
    ((mapped 0 0 0 0x3F).writeAt inst 0xFFFF (.ram, 0x7FFFF) 0x12).ramByte inst 0x7FFFF = 0x12 ∧
    ({ mapped 0 0 0x20 0 with seq := 2 }.writeAt inst 0x8000 (.ram, 0) 0x99).seq = 2 := by decide

/-- A4: the write of an unlocked ROM byte stores nothing. -/
theorem test_write_rom_idle :
    ((mapped 0 0 0 0).writeAt inst 0x0100 (.rom, 0x00100) 0x00).romByte inst 0x00100 = 0xC3 := by decide

/-- Writing what an unlisted byte reads as removes the entry: equal memories are equal lists. -/
theorem test_memory_canonical :
    ((start.writeRam inst 7 0x11).writeRam inst 7 0x5A).ram = [] ∧
    ((start.writeRam inst 9 1).writeRam inst 7 2).ram = [(7, 2), (9, 1)] := by decide

/-! ### The paging ports -/

/-- B3. -/
theorem test_out_page_select : ∃ t, exec (.outPageSelect 1 3 0xFF) start = .next t ∧ t.page 3 = 0xFF ∧ t.page 0 = 0 :=
  ⟨_, rfl, by decide, by decide⟩

/-- B5 and B6: data bit 0 alone counts. -/
theorem test_out_paging_enable :
    (∃ t, exec (.outPagingEnable 0 0 0xFE) (mapped 0 0 0 0) = .next t ∧ t.pe = false) ∧
    (∃ t, exec (.outPagingEnable 0 3 0x03) start = .next t ∧ t.pe = true) :=
  ⟨⟨_, rfl, by decide⟩, _, rfl, by decide⟩

/-- B8 and B9. -/
theorem test_other_ports :
    (∃ t, exec (.inPaging 0) start = .next t ∧ t.pr = start.pr ∧ t.draws = 1) ∧
    exec (.ioOther true 0x20 0xFF) start = .next start :=
  ⟨⟨_, rfl, rfl, rfl⟩, rfl⟩

/-! ### The flash sequencer -/

/-- F1, F4, F7, F9, F17, F19: the code after one write. -/
theorem test_step_codes :
    ((coded 0x00).flashWrite inst 0x05555 0xAA).seq = 0x01 ∧ ((coded 0x01).flashWrite inst 0x02AAA 0x55).seq = 0x02 ∧
    ((coded 0x02).flashWrite inst 0x05555 0xA0).seq = 0xA0 ∧ ((coded 0x02).flashWrite inst 0x05555 0x0F).seq = 0x00 ∧
    ((coded 0x80).flashWrite inst 0x05555 0xAA).seq = 0x81 ∧ ((coded 0x81).flashWrite inst 0x02AAA 0x55).seq = 0x82 := by
  decide

/-- F3, F5, F6, F13, F18, F25, F29: the writes that go back to 0. -/
theorem test_step_resets :
    ((coded 0x00).flashWrite inst 0x15555 0xAA).seq = 0x00 ∧ ((coded 0x01).flashWrite inst 0x05555 0xAA).seq = 0x00 ∧
    ((coded 0x01).flashWrite inst 0x02AAA 0x00).seq = 0x00 ∧ ((coded 0x02).flashWrite inst 0x05554 0xA0).seq = 0x00 ∧
    ((coded 0x80).flashWrite inst 0x02AAA 0x55).seq = 0x00 ∧ ((coded 0x82).flashWrite inst 0x12345 0x10).seq = 0x00 ∧
    ((coded 0x90).flashWrite inst 0x05555 0xAA).seq = 0x00 := by decide

/-- F14: program 0x12 at 0x10000 in tick 5. -/
theorem test_program :
    ((coded 0xA0).flashWrite inst 0x10000 0x12).romByte inst 0x10000 = 0x12 ∧
    ((coded 0xA0).flashWrite inst 0x10000 0x12).deadline = 1125000 ∧
    ((coded 0xA0).flashWrite inst 0x10000 0x12).active = true := by decide

/-- F21. -/
theorem test_chip_erase :
    ((coded 0x82).flashWrite inst 0x05555 0x10).romByte inst 0x100 = 0xFF ∧
    ((coded 0x82).flashWrite inst 0x05555 0x10).deadline = 2625000 := by decide

/-- F23, F24: where a sector starts. -/
theorem test_sector_base : sectorBase 0x12345 = 0x12000 ∧ sectorBase 0x7FFFF = 0x7F000 := by decide

/-- R121 on a small run: a fill takes exactly its bytes. -/
theorem test_fill :
    Memory.read (fun _ => 0) (Memory.fill (fun _ => 0) [(3, 1), (4, 2), (6, 3)] 4 2 0xFF) 3 = 1 ∧
    Memory.fill (fun _ => 0) [(3, 1), (4, 2), (6, 3)] 4 2 0xFF = [(3, 1), (4, 0xFF), (5, 0xFF), (6, 3)] := by decide

/-- The state of the vectors G1 to G6: 0x12 programmed at 0x10000, `deadline` = 1125000. -/
def busyAt (t : Nat) : State :=
  { coded 0x03 with active := true, deadline := 1125000, now := t, tmask := 0x80, rom := [(0x10000, 0x12)] }

/-- G1: the first masked read, and the mask after it. -/
theorem test_masked_read :
    ((busyAt 750000).flashRead inst 0x10000).out = [.byte 0x92] ∧
    ((busyAt 750000).flashRead inst 0x10000).tmask = 0xC0 := by decide

/-- G4: at `now` = `deadline` the read completes the operation and is not masked. -/
theorem test_completing_read :
    ((busyAt 1125000).flashRead inst 0x10000).out = [.byte 0x12] ∧
    ((busyAt 1125000).flashRead inst 0x10000).active = false ∧
    ((busyAt 1125000).flashRead inst 0x10000).seq = 0x00 ∧ ((busyAt 1125000).flashRead inst 0x10000).tmask = 0x80 := by
  decide

/-- G5 and F27: completion comes first; before the deadline the write is lost. -/
theorem test_write_while_busy :
    ((busyAt 1125000).flashWrite inst 0x05555 0xAA).seq = 0x01 ∧
    ((busyAt 1125000).flashWrite inst 0x05555 0xAA).active = false ∧
    (busyAt 750000).flashWrite inst 0x05555 0xAA = busyAt 750000 := by decide

/-- G6: idle ticks do not complete an operation. -/
theorem test_idle_ticks_keep_busy : ((busyAt 1125000).idleTicks inst 2).active = true := by decide

/-! ### The audio sampler -/

/-- K2 and K3. -/
theorem test_push :
    ringOf ((ring 0 3 3 [1, 2, 3, 0]).pushSample inst 4) = (0, 0, 4, 0) ∧
    ((ring 0 3 3 [1, 2, 3, 0]).pushSample inst 4).buf = [1, 2, 3, 4] ∧
    (ring 0 0 4 [1, 2, 3, 4]).pushSample inst 5 = ring 0 0 4 [1, 2, 3, 4] := by decide

/-- K4, K5 and K6. -/
theorem test_pop :
    ringOf ((ring 0 0 4 [1, 2, 3, 4]).popSample inst) = (1, 0, 3, 1) ∧
    ringOf ((ring 3 1 2 [9, 0, 0, 8]).popSample inst) = (0, 1, 1, 8) ∧
    ({ ring 1 1 0 [9, 0, 0, 8] with last := 9 }).nextOut = 9 := by decide

/-- K8 and K10. -/
theorem test_callback :
    ((ring 0 2 2 [1, 2, 0, 0]).popSamples inst 4).1 = [1, 2, 2, 2] ∧
    ringOf ((ring 0 2 2 [1, 2, 0, 0]).popSamples inst 4).2 = (2, 2, 0, 2) ∧
    ({ ring 0 1 1 [5, 0, 0, 0] with captureOn := true }.popSamples inst 2).2.capture = [5, 5] := by decide

/-- K9: pop, push, pop, pop, pop. -/
theorem test_interleaved :
    ((((ring 0 2 2 [1, 2, 0, 0]).popSample inst).pushSample inst 3).popSamples inst 3).1 = [2, 3, 3] := by decide

/-- The sample schedule: none in 7 ticks, one in 8. -/
theorem test_schedule :
    (start.idleTicks inst 7).avail = 0 ∧ (start.idleTicks inst 8).avail = 1 ∧
    (start.idleTicks inst 8).nextSample = 2000000 := by decide

/-- R141, R143: the sampled bit of the modem-control byte gives the level. -/
theorem test_sample_bit :
    { start with mcr := 0x04 }.sampleNow inst = 7 ∧ { start with mcr := 0xFB }.sampleNow inst = 0 := by decide

/-- R153 and R179. -/
theorem test_host_audio :
    (∃ t, exec (.audioSetVolume 3) start = .next t ∧ t.volume = 3) ∧
    (∃ t, exec (.hostCapture true) start = .next t ∧ t.captureOn = true ∧ t.capture = []) :=
  ⟨⟨_, rfl, rfl⟩, _, rfl, rfl, rfl⟩

/-! ### The host -/

/-- J1 and the host's edit of `PE`. -/
theorem test_host_paging :
    (∃ t, exec (.hostSetPage 2 0x21) start = .next t ∧ t.page 2 = 0x21) ∧
    (∃ t, exec (.hostSetPe true) start = .next t ∧ t.pe = true) :=
  ⟨⟨_, rfl, by decide⟩, _, rfl, rfl⟩

/-- J2 and J4. -/
theorem test_host_write :
    (start.writeAt inst 0x8010 (translateBy 0x21 0x8010) 0x7E).ramByte inst 0x04010 = 0x7E ∧
    (start.writeAt inst 0x5555 (translateBy 0x01 0x5555) 0xAA).seq = 0x01 := by decide

/-- J5: a snapshot is raw. -/
theorem test_host_read :
    ((busyAt 750000).snapshot inst (translateBy 0x04 0xC000)).out = [.byte 0x12] ∧
    ((busyAt 750000).snapshot inst (translateBy 0x04 0xC000)).tmask = 0x80 := by decide

/-! ### One step -/

/-- P1, tick 1 (log 1): the first read after reset is taken from the queue; its byte is that of ROM offset 0. -/
theorem test_step_first_read :
    ∃ t, step { State.reset with inputs := [.event 0x10000000] } = .next t ∧ t.inputs = [] ∧
      t.now = Config.params.clockCyclePs ∧ t.out = [.byte (Config.params.romImage 0)] :=
  ⟨_, rfl, by simp, by simp [State.reset, State.resetWith], by rw [State.endTick_out]; rfl⟩

/-- A tick with `mreq` alone: time advances by one clock period and the byte is answered (R46, R47). -/
theorem test_step_memory_tick :
    ∃ t, step { State.reset with inputs := [.request ⟨true, false, false, 0x4010, 0⟩] } = .next t ∧
      t.now = Config.params.clockCyclePs ∧ t.out = [.byte (Config.params.romImage 0x10)] :=
  ⟨_, rfl, by simp [State.reset, State.resetWith], by rw [State.endTick_out]; rfl⟩

/-- R84: the nibbles on both sides of the paging nibble, the nearest and the farthest going round. -/
theorem test_other_nibbles : inst.keyboardNibble = 8 ∧ inst.uartNibble = 6 := by decide

/-- An FW word runs from the state `withFetchWord` leaves. -/
theorem test_step_table_word :
    ∃ t, step (State.reset.withFetchWord 40 0x4082AAA55) = .next t ∧ t.seq = 0x82 :=
  ⟨_, rfl, rfl⟩

/-- A flash write word whose code is not the sequencer's is not formed (log 11). -/
theorem test_step_word_not_formed :
    step { State.reset with inputs := [.flashWord 0x0082AAA55] } = .refused (.flashWordNotFormed 0x01) := rfl

/-! ### States and operands that meet the hypotheses of the statements -/

/-- After reset with paging on and every page register `p`. -/
def resetPaged (p : Byte) : State := { State.reset with pe := true, pr := #v[p, p, p, p] }

/-- After reset with the sequencer in state `c`. -/
def resetCoded (c : Byte) : State := { State.reset with seq := c }

/-- After reset with an operation in progress until `t`. -/
def resetBusy (t : Nat) : State := { State.reset with seq := 0x03, active := true, deadline := t }

/-- After reset with one sample waiting. -/
def resetOne : State := { State.reset with wr := 1 % Config.params.audioCap, avail := 1 }

theorem witness_decode_of_encode :
    (Instr.memRead 0x4000).wf = true ∧ encode (.memRead 0x4000) = some (.event 0x10400000) ∧
    (Instr.idleTick 65535).wf = true ∧ encode (.idleTick 65535) = some (.event 0x00FFFF00) ∧
    (Instr.flashSectorErase 0x7FFFF).wf = true ∧
      encode (.flashSectorErase 0x7FFFF) = some (.flashWord 0x417FFFF30) := by decide

theorem witness_translate_modes :
    State.reset.pe = false ∧ (resetPaged 0x20).pe = true ∧ (resetPaged 0x20).page 3 = 0x20 ∧
    (0x20 : Byte).toNat / 32 = 1 ∧ (0x3F : Byte).toNat / 32 = 1 ∧ (0x40 : Byte).toNat / 32 = 2 ∧
    (0x5F : Byte).toNat / 32 = 2 ∧ (0x1F : Byte).toNat / 32 = 0 ∧ (0x60 : Byte).toNat / 32 = 3 := by decide

theorem witness_ram_requests :
    (resetPaged 0x20).translate 0x4000 = (.ram, 0) ∧ (resetPaged 0x20).translate 0x8000 = (.ram, 0) ∧
    (resetPaged 0x3F).translate 0xFFFF = (.ram, 0x7FFFF) ∧ (resetPaged 0x20).translate 0x4001 = (.ram, 1) := by decide

theorem witness_video_and_rom_requests :
    (resetPaged 0x40).translate 0x8000 = (.video, 0) ∧ (resetPaged 0x60).translate 0x0123 = (.rom, 0x00123) ∧
    State.reset.translate 0xFFFF = (.rom, 0x03FFF) := by decide

theorem witness_page_select : (resetPaged 0).pe = true ∧ quadrantOf 0xC000 = 3 ∧ quadrantOf 0xBFFF ≠ 3 := by decide

theorem witness_idle_schedule : ScheduleOk State.reset ∧ State.reset.avail ≤ Config.params.audioCap :=
  ⟨by simp [ScheduleOk, State.reset, State.resetWith], Nat.zero_le _⟩

theorem witness_flash_read :
    State.reset.active = false ∧ (resetBusy 0).active = true ∧ (resetBusy 0).deadline ≤ (resetBusy 0).now ∧
    (resetBusy 1).active = true ∧ (resetBusy 1).now < (resetBusy 1).deadline := by decide

theorem witness_command_addresses :
    (0x05555 : Offset) &&& Config.params.cmdAddrMask = 0x05555 &&& Config.params.cmdAddrMask ∧
    (0x02AAA : Offset) &&& Config.params.cmdAddrMask = 0x02AAA &&& Config.params.cmdAddrMask ∧
    16 ≤ (0x10 : Byte).toNat := ⟨rfl, rfl, by decide⟩

theorem witness_reset_row : fallsToReset Config.params.cmdAddrMask 0x90 0x05555 0xAA = true := by decide

theorem witness_write_while_busy : (resetBusy 1).seq = 0x03 ∧ (resetBusy 1).now < (resetBusy 1).deadline := by decide

/-- Each state code of the transition table, an unknown one among them. -/
theorem witness_transition_table :
    ∀ c ∈ [(0x00 : Byte), 0x01, 0x02, 0xA0, 0x80, 0x81, 0x82, 0x90], FlashOk (resetCoded c) ∧ (resetCoded c).seq = c := by
  intro c hc
  simp only [List.mem_cons, List.not_mem_nil, or_false] at hc
  rcases hc with rfl | rfl | rfl | rfl | rfl | rfl | rfl | rfl <;>
    exact ⟨⟨by decide, by decide, .inl rfl⟩, rfl⟩

/-- State 3, before the deadline and at it. -/
theorem witness_transition_busy :
    FlashOk (resetBusy 1) ∧ (resetBusy 1).now < (resetBusy 1).deadline ∧ FlashOk (resetBusy 0) ∧
    (resetBusy 0).deadline ≤ (resetBusy 0).now :=
  ⟨⟨by decide, by decide, .inl rfl⟩, by decide, ⟨by decide, by decide, .inl rfl⟩, by decide⟩

theorem witness_command_sequences :
    State.reset.seq = 0x00 ∧ State.reset.active = false ∧ 16 ≤ (0x90 : Byte).toNat ∧ (0x90 : Byte) ≠ 0xA0 ∧
    (0x90 : Byte) ≠ 0x80 ∧ (0x90 : Byte) ≠ 0x81 ∧ (0x90 : Byte) ≠ 0x82 := by decide

theorem witness_boot_mapping : State.reset.pe = false ∧ State.reset.seq = 0x00 ∧ State.reset.active = false := by decide

theorem witness_push :
    State.reset.avail < Config.params.audioCap ∧
    Config.params.audioCap ≤ { State.reset with avail := Config.params.audioCap }.avail :=
  ⟨audioCap_pos, Nat.le_refl _⟩

/-- An empty ring buffer and one that holds a sample. -/
theorem witness_ring : RingOk { State.reset with pe := true } ∧ RingOk resetOne ∧ resetOne.avail = 1 :=
  ⟨⟨by simp [State.reset, State.resetWith], Nat.zero_le _, audioCap_pos, by simp [State.reset, State.resetWith]⟩,
    ⟨by simp [resetOne, State.reset, State.resetWith], Nat.succ_le_of_lt audioCap_pos, audioCap_pos,
      by simp [resetOne, State.reset, State.resetWith]⟩, rfl⟩

theorem witness_capture : State.reset.captureOn = false ∧ { State.reset with captureOn := true }.captureOn = true := by
  decide

theorem witness_sample :
    State.reset.now < State.reset.nextSample ∧
    { State.reset with now := Config.params.samplePeriodPs }.nextSample ≤
      { State.reset with now := Config.params.samplePeriodPs }.now :=
  ⟨period_pos, Nat.le_refl _⟩

/-- An input taken from the state after reset with paging on: the invariant holds before, and the step answers. -/
theorem witness_every_step :
    ∃ t, MachineOk (resetPaged 0x20) ∧ step (resetPaged 0x20) = .next t :=
  ⟨_, ⟨⟨by decide, by decide, .inl rfl⟩,
    ⟨rfl, rfl, fun _ h => absurd h (List.not_mem_nil), fun _ h => absurd h (List.not_mem_nil)⟩,
    ⟨by simp [resetPaged, State.reset, State.resetWith], Nat.zero_le _, audioCap_pos,
      by simp [resetPaged, State.reset, State.resetWith]⟩,
    ⟨fun x hx => by
        simp only [resetPaged, State.reset, State.resetWith, List.mem_map] at hx
        obtain ⟨_, _, rfl⟩ := hx
        exact toSample_inRange _,
      toSample_inRange _, fun _ h => absurd h (List.not_mem_nil)⟩,
    by simp [ScheduleOk, resetPaged, State.reset, State.resetWith]⟩, rfl⟩

/-- Inputs for each clause of the statement about a step. -/
theorem witness_step_inputs :
    State.reset.inputs = [] ∧ decode (.event 0x60000000) = none ∧ decode (.uartMcr 4) = some (.uart 4) ∧
    decode (.flashWord 0x501000012) = some (.flash 0xA0 (.flashProgram 0x10000 0x12)) ∧
    decode .pop = some (.act .audioPop) ∧ decode (.event 0x10400000) = some (.bus [.memRead 0x4000]) := by decide

/-- The code a flash write word needs, held and not held. -/
theorem witness_step_flash_code : (resetCoded 0xA0).seq = 0xA0 ∧ State.reset.seq ≠ 0xA0 := by decide

/-- A request record for each combination of the two lines. -/
theorem witness_request_lines :
    ∀ m i w : Bool, ({ State.reset with inputs := [.request ⟨m, i, w, 0x0074, 0x01⟩] } : State).inputs =
      .request ⟨m, i, w, 0x0074, 0x01⟩ :: [] := fun _ _ _ => rfl

/-- A port for each clause of the routing. -/
theorem witness_ports :
    (portOf Config.params.pagingPortNibble 0x3).getLsbD 2 = false ∧
    (portOf Config.params.pagingPortNibble 0x4).getLsbD 2 = true ∧
    Config.params.keyboardNibble ≠ Config.params.pagingPortNibble ∧
    Config.params.uartNibble ≠ Config.params.pagingPortNibble :=
  ⟨by generalize Config.params.pagingPortNibble = n; revert n; decide,
    by generalize Config.params.pagingPortNibble = n; revert n; decide, Config.params.otherNibbles_ne⟩

theorem witness_unused_event :
    { State.reset with inputs := [.event 0x60000000] }.inputs = .event 0x60000000 :: [] ∧
    6 ≤ (0x60000000 : BitVec 32).toNat / 2 ^ 28 := by decide

/-- A step that changes the paging state. -/
theorem witness_paging_changes :
    ∃ t, step { State.reset with inputs := [.setPe true] } = .next t ∧
      ¬ SamePaging { State.reset with inputs := [.setPe true] } t :=
  ⟨_, rfl, fun h => absurd h.1 (by decide)⟩

/-- A step that changes a ROM byte: a byte-program of a byte that is not the one there. -/
theorem witness_rom_changes :
    ∃ t, step { resetCoded 0xA0 with inputs := [.flashWord (flashWordOf 0xA0 0 (~~~ Config.params.romImage 0))] } = .next t ∧
      ¬ SameRom { resetCoded 0xA0 with inputs := [.flashWord (flashWordOf 0xA0 0 (~~~ Config.params.romImage 0))] } t := by
  have hd : decode (.flashWord (flashWordOf 0xA0 0 (~~~ Config.params.romImage 0))) =
      some (.flash 0xA0 (.flashProgram 0 (~~~ Config.params.romImage 0))) := by
    simp [decode, decodeWith, decodeFlashWith_word]
  refine ⟨_, by simp only [step, runInput, hd]; rfl, fun h => ?_⟩
  have h0 := h 0
  have hn : ∀ b : Byte, ~~~ b ≠ b := by decide
  refine hn (Config.params.romImage 0) (Eq.trans ?_ (h0.trans rfl))
  exact ((State.programRom_romByte Config.params (resetCoded 0xA0) 0 _ 0).trans (if_pos rfl)).symm

/-- A step during an operation that does not end it. -/
theorem witness_deadline :
    ∃ t, FlashOk (resetBusy 1) ∧ (resetBusy 1).active = true ∧ step (resetBusy 1) = .next t ∧ t.active = true :=
  ⟨_, ⟨by decide, by decide, .inl rfl⟩, rfl, rfl, by simp [resetBusy]⟩

end Sys2Proof.Tests
end

section
/-! PROOF. TRANSLATE (`40_paging.md` R101): its effect on the state, and its result in each translation mode. -/

namespace Sys2Proof.Machine

/-! ### What handing over an answer leaves unchanged -/

theorem State.answer_sameBlock (s : State) (a : Answer) : SameBlock s (s.answer a) := by
  simp [SameBlock, SamePaging, SameRam, SameRom, SameFlashRegs, SameAudio, SameRing, SameAudioRegs, SameTime]

theorem State.answer_answers (s : State) (a : Answer) : Answers s (s.answer a) [a] :=
  ⟨s.answer_out a, s.answer_draws a⟩

/-! ### The region of a page byte, by its class as a number (`30_encoding.md` R78) -/

theorem regionOf_eq_ram_iff (p : Byte) : regionOf p = .ram ↔ p.toNat / 32 = 1 := by
  rw [regionOf_eq]; split_ifs <;> simp [*]

theorem regionOf_eq_video_iff (p : Byte) : regionOf p = .video ↔ p.toNat / 32 = 2 := by
  rw [regionOf_eq]; split_ifs <;> simp [*]

theorem regionOf_eq_rom_iff (p : Byte) : regionOf p = .rom ↔ p.toNat / 32 ≠ 1 ∧ p.toNat / 32 ≠ 2 := by
  rw [regionOf_eq]; split_ifs <;> simp [*]

/-! ### TRANSLATE in each mode -/

theorem State.translate_of_pe_false {s : State} (h : s.pe = false) (a : Addr) :
    s.translate a = (.rom, unpagedOffset a) := by
  simp [State.translate, h]

theorem State.translate_of_pe_true {s : State} (h : s.pe = true) (a : Addr) :
    s.translate a = translateBy (s.page (quadrantOf a)) a := by
  simp [State.translate, h]

/-- TRANSLATE hands over the pair that `State.translate` answers, and does nothing else. -/
theorem exec_translate (a : Addr) (s : State) :
    exec (.translate a) s = .next (s.answer (.translated (s.translate a).1 (s.translate a).2)) := rfl

/-- Settles O4: one answer is handed over, and the pair in it is taken apart by the translation mode. -/
theorem translateFollowsThePagingMode : Obligations.TranslateFollowsThePagingMode := by
  intro a s
  refine ⟨_, _, _, exec_translate a s, s.answer_answers _, s.answer_sameBlock _, fun off => ?_, fun on => ?_⟩
  · rw [State.translate_of_pe_false off]
    exact ⟨rfl, unpagedOffset_toNat a⟩
  · rw [State.translate_of_pe_true on, ← quadrantOf_eq_ofNat]
    exact ⟨_, rfl, pagedOffset_toNat _ a, regionOf_eq_ram_iff _, regionOf_eq_video_iff _, regionOf_eq_rom_iff _⟩

end Sys2Proof.Machine
end

section
/-! PROOF. The flash sequencer's operations (`41_flash.md` R111, R114 to R122): which write selects each row of the command
map, what the row leaves unchanged, and how the bytes of ROM read after it. -/

namespace Sys2Proof.Machine

/-! ### What the operations leave unchanged -/

theorem State.setSeq_frame (s : State) (c : Byte) :
    (s.setSeq c).active = s.active ∧ (s.setSeq c).deadline = s.deadline ∧ (s.setSeq c).tmask = s.tmask ∧
      SamePaging s (s.setSeq c) ∧ SameRam s (s.setSeq c) ∧ SameRom s (s.setSeq c) ∧ SameAudio s (s.setSeq c) ∧
      SameTime s (s.setSeq c) ∧ Silent s (s.setSeq c) := by
  simp [SamePaging, SameRam, SameRom, SameAudio, SameRing, SameAudioRegs, SameTime, Silent]

/-- An operation confined to ROM and the sequencer's registers leaves the rest of the state alone. -/
theorem State.FlashOnly.frame {s t : State} (h : s.FlashOnly t) :
    t.tmask = s.tmask ∧ SamePaging s t ∧ SameRam s t ∧ SameAudio s t ∧ SameTime s t ∧ Silent s t := by
  obtain ⟨_, _, _, _, _, rfl⟩ := h
  simp [SamePaging, SameRam, SameAudio, SameRing, SameAudioRegs, SameTime, Silent, State.ramByte]

theorem State.flashProgram_flashOnly (P : Params) (s : State) (o : Offset) (d : Byte) :
    s.FlashOnly (s.flashProgram P o d) := ⟨_, _, _, _, _, rfl⟩

theorem State.flashChipErase_flashOnly (P : Params) (s : State) : s.FlashOnly (s.flashChipErase P) :=
  ⟨_, _, _, _, _, rfl⟩

theorem State.flashSectorErase_flashOnly (P : Params) (s : State) (o : Offset) :
    s.FlashOnly (s.flashSectorErase P o) := ⟨_, _, _, _, _, rfl⟩

/-- A ROM read changes neither memory, and of the sequencer's registers not the deadline. -/
theorem State.flashRead_frame (s : State) (o : Offset) :
    SamePaging s (s.flashRead Config.params o) ∧ SameRam s (s.flashRead Config.params o) ∧
      SameRom s (s.flashRead Config.params o) ∧ SameAudio s (s.flashRead Config.params o) ∧
      SameTime s (s.flashRead Config.params o) ∧ (s.flashRead Config.params o).deadline = s.deadline := by
  simp [SamePaging, SameRam, SameRom, SameAudio, SameRing, SameAudioRegs, SameTime]

/-! ### How the bytes of ROM read after a program or an erase -/

theorem State.flashProgram_romByte (P : Params) (s : State) (o : Offset) (d : Byte) (k : Nat) :
    (s.flashProgram P o d).romByte P k = if k = o.toNat then d else s.romByte P k := by
  simp [State.flashProgram]

theorem State.flashChipErase_romByte (P : Params) (s : State) (k : Nat) :
    (s.flashChipErase P).romByte P k = 0xFF := by
  simp [State.flashChipErase]

/-- The bytes from a sector's base on, by their sector number (`41_flash.md` R121). -/
theorem inSector_iff (o : Offset) (k : Nat) :
    ((sectorBase o).toNat ≤ k ∧ k < (sectorBase o).toNat + sectorSize) ↔ k / 4096 = o.toNat / 4096 := by
  rw [sectorBase_toNat, sectorSize]
  omega

theorem State.flashSectorErase_romByte (P : Params) (s : State) (o : Offset) (k : Nat) :
    (s.flashSectorErase P o).romByte P k = if k / 4096 = o.toNat / 4096 then 0xFF else s.romByte P k := by
  simp [State.flashSectorErase, inSector_iff]

/-! ### FLASH_READ by the state of the operation (`41_flash.md` R111) -/

theorem State.flashRead_of_idle (P : Params) {s : State} (o : Offset) (idle : s.active = false) :
    s.flashRead P o = s.answer (.byte (s.romByte P o.toNat)) := by
  simp [State.flashRead, idle]

theorem State.flashRead_of_done (P : Params) {s : State} (o : Offset) (ha : s.active = true)
    (done : s.deadline ≤ s.now) :
    s.flashRead P o = s.completeOperation.answer (.byte (s.romByte P o.toNat)) := by
  simp [State.flashRead, ha, done]

theorem State.flashRead_of_busy (P : Params) {s : State} (o : Offset) (ha : s.active = true)
    (busy : s.now < s.deadline) :
    s.flashRead P o = (s.answer (.byte (s.romByte P o.toNat ^^^ s.tmask))).flipMask := by
  simp [State.flashRead, ha, busy]

/-- Settles O21: the frame of a ROM read, then its value in each of the three cases. -/
theorem flashReadMasksUntilTheDeadline : Obligations.FlashReadMasksUntilTheDeadline := by
  intro o s
  obtain ⟨hpaging, hram, hrom, haudio, htime, hdeadline⟩ := s.flashRead_frame o
  refine ⟨_, rfl, hpaging, hram, hrom, haudio, htime, hdeadline, fun idle => ?_, fun ha done => ?_, fun ha busy => ?_⟩
  · rw [State.flashRead_of_idle _ o idle]
    exact ⟨s.answer_answers _, rfl, rfl, rfl, rfl⟩
  · rw [State.flashRead_of_done _ o ha done]
    exact ⟨s.completeOperation.answer_answers _, rfl, rfl, rfl⟩
  · rw [State.flashRead_of_busy _ o ha busy]
    exact ⟨s.answer_answers _, rfl, ha, rfl⟩

/-! ### Which row of the command map takes a write (`30_encoding.md` R87) -/

theorem matchesCommand_iff {mask o target : Offset} :
    matchesCommand mask o target = true ↔ o &&& mask = target &&& mask := by
  simp [matchesCommand]

section Rows

variable {o : Offset}

theorem decodeFlash_unlock1 (a5 : matchesCommand Config.params.cmdAddrMask o addrA5 = true) :
    decodeFlash (flashWordOf 0x00 o 0xAA) = .flashUnlock1 o := by
  simp [decodeFlash, decodeFlashWith_word, a5]

theorem decodeFlash_unlock2 (a2 : matchesCommand Config.params.cmdAddrMask o addrA2 = true) :
    decodeFlash (flashWordOf 0x01 o 0x55) = .flashUnlock2 o := by
  simp [decodeFlash, decodeFlashWith_word, a2]

theorem decodeFlash_eraseUnlock1 (a5 : matchesCommand Config.params.cmdAddrMask o addrA5 = true) :
    decodeFlash (flashWordOf 0x80 o 0xAA) = .flashEraseUnlock1 o := by
  simp [decodeFlash, decodeFlashWith_word, a5]

theorem decodeFlash_eraseUnlock2 (a2 : matchesCommand Config.params.cmdAddrMask o addrA2 = true) :
    decodeFlash (flashWordOf 0x81 o 0x55) = .flashEraseUnlock2 o := by
  simp [decodeFlash, decodeFlashWith_word, a2]

/-- In state 2 a byte at the command address is taken by row 3 or row 4, by its high nibble. -/
theorem decodeFlash_command (a5 : matchesCommand Config.params.cmdAddrMask o addrA5 = true) (d : Byte) :
    decodeFlash (flashWordOf 0x02 o d) =
      if d &&& 0xF0 == 0 then .flashResetCommand o (d.extractLsb' 0 4) else .flashCmd o d := by
  simp [decodeFlash, decodeFlashWith_word, a5]

theorem decodeFlash_chipErase (a5 : matchesCommand Config.params.cmdAddrMask o addrA5 = true) :
    decodeFlash (flashWordOf 0x82 o 0x10) = .flashChipErase o := by
  simp [decodeFlash, decodeFlashWith_word, a5]

theorem decodeFlash_program (o : Offset) (d : Byte) : decodeFlash (flashWordOf 0xA0 o d) = .flashProgram o d := by
  simp [decodeFlash, decodeFlashWith_word]

theorem decodeFlash_sectorErase (o : Offset) : decodeFlash (flashWordOf 0x82 o 0x30) = .flashSectorErase o := by
  simp [decodeFlash, decodeFlashWith_word]

/-- A write that none of rows 1 to 10 takes falls to row 11. -/
theorem decodeFlash_reset {code d : Byte} (h : fallsToReset Config.params.cmdAddrMask code o d = true) :
    decodeFlash (flashWordOf code o d) = .flashReset code o d := by
  simp only [fallsToReset, Bool.and_eq_true, Bool.not_eq_true'] at h
  obtain ⟨⟨⟨⟨⟨⟨⟨⟨row1, row2⟩, rows34⟩, row5⟩, row6⟩, row7⟩, row8⟩, row9⟩, row10⟩ := h
  simp only [decodeFlash, decodeFlashWith_word, row1, row2, rows34, row5, row6, row7, row8, row9, row10,
    Bool.false_and, Bool.false_eq_true, if_false]

end Rows

/-! ### The rows that only set the code -/

/-- Settles O25: each unlock operation is one `setSeq`. -/
theorem unlockWritesAdvanceTheCode : Obligations.UnlockWritesAdvanceTheCode := by
  intro o s
  refine ⟨fun h => ?_, fun h => ?_, fun i code hi => ?_⟩
  · have a5 : matchesCommand Config.params.cmdAddrMask o addrA5 = true := matchesCommand_iff.mpr h
    exact ⟨decodeFlash_unlock1 a5, decodeFlash_eraseUnlock1 a5⟩
  · have a2 : matchesCommand Config.params.cmdAddrMask o addrA2 = true := matchesCommand_iff.mpr h
    exact ⟨decodeFlash_unlock2 a2, decodeFlash_eraseUnlock2 a2⟩
  · have sets : exec i s = .next (s.setSeq code) := by
      simp only [List.mem_cons, List.not_mem_nil, or_false, Prod.mk.injEq] at hi
      obtain ⟨rfl, rfl⟩ | ⟨rfl, rfl⟩ | ⟨rfl, rfl⟩ | ⟨rfl, rfl⟩ := hi <;> rfl
    exact ⟨_, sets, rfl, s.setSeq_frame code⟩

/-- Settles O26: a byte of 16 or more has a high nibble that is not zero, so row 3 does not take it. -/
theorem commandByteIsStored : Obligations.CommandByteIsStored := by
  refine fun o d s => ⟨fun a5 big => ?_, _, rfl, rfl, s.setSeq_frame d⟩
  have nibble : (d &&& 0xF0 == 0) = false := by simpa using (highNibble_iff d).mpr big
  rw [decodeFlash_command (matchesCommand_iff.mpr a5), nibble]
  rfl

/-- Settles O30: the operation of either row is `setSeq 0`. -/
theorem unexpectedWritesResetTheCode : Obligations.UnexpectedWritesResetTheCode := by
  refine fun o code d lo s => ⟨decodeFlash_reset, fun a5 => ?_, fun i hi => ?_⟩
  · have high : (lo.setWidth 8 &&& 0xF0 == (0 : Byte)) = true := by revert lo; decide
    have low : (lo.setWidth 8).extractLsb' 0 4 = lo := by revert lo; decide
    rw [decodeFlash_command (matchesCommand_iff.mpr a5), high, low]
    rfl
  · have sets : exec i s = .next (s.setSeq 0x00) := by
      simp only [List.mem_cons, List.not_mem_nil, or_false] at hi
      obtain rfl | rfl := hi <;> rfl
    exact ⟨_, sets, rfl, s.setSeq_frame 0x00⟩

/-! ### The rows that change ROM and start an operation -/

/-- Settles O27: a read after the program, and the frame of an operation confined to the flash. -/
theorem programStoresTheByteAndStarts : Obligations.ProgramStoresTheByteAndStarts := fun o d s =>
  ⟨decodeFlash_program o d, _, rfl, (s.flashProgram_romByte _ o d _).trans (if_pos rfl),
    fun k hk => (s.flashProgram_romByte _ o d k).trans (if_neg hk), rfl, rfl, rfl,
    (s.flashProgram_flashOnly _ o d).frame⟩

/-- Settles O28: after a chip erase every byte reads 0xFF, those of ROM among them. -/
theorem chipEraseFillsAllOfRom : Obligations.ChipEraseFillsAllOfRom := fun _ s =>
  ⟨fun a5 => decodeFlash_chipErase (matchesCommand_iff.mpr a5), _, rfl,
    fun k _ => s.flashChipErase_romByte _ k, rfl, rfl, rfl, (s.flashChipErase_flashOnly _).frame⟩

/-- Settles O29: the filled bytes are those with the sector number of the offset. -/
theorem sectorEraseFillsExactlyItsSector : Obligations.SectorEraseFillsExactlyItsSector := fun o s =>
  ⟨decodeFlash_sectorErase o, _, rfl, fun k hk => (s.flashSectorErase_romByte _ o k).trans (if_pos hk),
    fun k hk => (s.flashSectorErase_romByte _ o k).trans (if_neg hk), rfl, rfl, rfl,
    (s.flashSectorErase_flashOnly _ o).frame⟩

end Sys2Proof.Machine
end

section
/-! PROOF. AUDIO_PUSH (`42_audio.md` R144): what it stores when there is room, and what it never changes. -/

namespace Sys2Proof.Machine

/-- With room, the sample goes to the write cursor, wherever that stands. -/
theorem State.pushSample_stores {P : Params} {s : State} (x : Sample) (room : s.avail < P.audioCap) :
    (s.pushSample P x).buf = s.buf.set s.wr x ∧ (s.pushSample P x).wr = (s.wr + 1) % P.audioCap ∧
      (s.pushSample P x).avail = s.avail + 1 := by
  rw [State.pushSample, if_pos room]
  exact ⟨rfl, rfl, rfl⟩

/-- Whether the sample is stored or dropped, only the ring can change. -/
theorem State.pushSample_frame (s : State) (x : Sample) :
    SameAudioRegs s (s.pushSample Config.params x) ∧ SamePaging s (s.pushSample Config.params x) ∧
      SameRam s (s.pushSample Config.params x) ∧ SameRom s (s.pushSample Config.params x) ∧
      SameFlashRegs s (s.pushSample Config.params x) ∧ SameTime s (s.pushSample Config.params x) ∧
      Silent s (s.pushSample Config.params x) := by
  simp [SameAudioRegs, SamePaging, SameRam, SameRom, SameFlashRegs, SameTime, Silent]

/-- Settles O35: with room the sample is stored, a full buffer leaves the state as it was, and the frame holds in both
cases. -/
theorem pushStoresOrDrops : Obligations.PushStoresOrDrops := by
  refine fun x s => ⟨s.pushSample Config.params x, rfl, fun room => ?_, fun full => ?_, s.pushSample_frame x⟩
  · obtain ⟨hbuf, hwr, havail⟩ := State.pushSample_stores x room
    exact ⟨hbuf, hwr, havail, s.pushSample_rd _ x⟩
  · rw [State.pushSample_full x full]
    exact ⟨rfl, rfl, rfl, rfl⟩

end Sys2Proof.Machine
end

section
/-! PROOF. The encoding (`30_encoding.md`): the decoder reads back what the encoder writes, which operations have no coded
form, and how a port byte is routed. -/

namespace Sys2Proof.Machine

/-! ### Flash write words (R86, R87) -/

/-- A flash write word asks for the operation of the row that takes it, in the state code it names. -/
theorem decode_flashWord {code : Byte} {o : Offset} {d : Byte} {i : Instr} (h : decodeFlash (flashWordOf code o d) = i) :
    decode (.flashWord (flashWordOf code o d)) = some (.flash code i) := by
  subst h
  simp [decode, decodeWith, decodeFlash]

theorem decodeFlash_busyIgnore (o : Offset) (d : Byte) : decodeFlash (flashWordOf 0x03 o d) = .flashBusyIgnore o d := by
  simp [decodeFlash, decodeFlashWith_word]

/-- Row 3 reads its operand back from the low nibble of the command byte. -/
theorem decodeFlash_resetCommand {o : Offset} (a5 : matchesCommand Config.params.cmdAddrMask o addrA5 = true)
    (lo : BitVec 4) : decodeFlash (flashWordOf 0x02 o ((0 : BitVec 4) ++ lo)) = .flashResetCommand o lo := by
  have high : ((0 : BitVec 4) ++ lo &&& 0xF0 == (0 : Byte)) = true := by revert lo; decide
  have low : ((0 : BitVec 4) ++ lo).extractLsb' 0 4 = lo := by revert lo; decide
  rw [decodeFlash_command a5, if_pos high, low]

/-- Row 4 takes a command byte whose high nibble is not zero. -/
theorem decodeFlash_cmd {o : Offset} (a5 : matchesCommand Config.params.cmdAddrMask o addrA5 = true) {d : Byte}
    (nibble : (d.extractLsb' 4 4 != 0) = true) : decodeFlash (flashWordOf 0x02 o d) = .flashCmd o d := by
  have high : (d.extractLsb' 4 4 != 0) = true → ¬(d &&& 0xF0 == 0) = true := by revert d; decide
  rw [decodeFlash_command a5, if_neg (high nibble)]

/-! ### Event words (R93) -/

theorem decode_tickWord {n : Nat} (h : n < 65536) :
    decode (.event (eventWord 0 (BitVec.ofNat 16 n) 0)) = some (.act (.idleTick n)) := by
  simp [decode, decodeWith, decodeEventWith_word, Nat.mod_eq_of_lt h]

theorem decode_callbackWord {n : Nat} (h : n < 65536) :
    decode (.event (eventWord 5 (BitVec.ofNat 16 n) 0)) = some (.act (.audioCallback n)) := by
  simp [decode, decodeWith, decodeEventWith_word, Nat.mod_eq_of_lt h]

theorem decode_readWord (a : Addr) : decode (.event (eventWord 1 a 0)) = some (.bus [.memRead a]) := by
  simp [decode, decodeWith, decodeEventWith_word]

theorem decode_writeWord (a : Addr) (d : Byte) : decode (.event (eventWord 2 a d)) = some (.bus [.memWrite a d]) := by
  simp [decode, decodeWith, decodeEventWith_word]

/-- An event word of an I/O request asks for what its port byte decodes to. -/
theorem decode_portWord (wr : Bool) {port d : Byte} (h : wr = false → d = 0) {i : Instr}
    (hi : decodePort Config.params.pagingPortNibble wr port d = i) :
    decode (.event (eventWord (if wr then 4 else 3) (0#8 ++ port) d)) = some (.bus [i]) :=
  hi ▸ decodeEventWith_port _ wr port d h

/-! ### Port bytes (R81 to R84) -/

theorem decodePagingPort_pageSelect (x : BitVec 1) (r : BitVec 2) (d : Byte) :
    decodePagingPort true (x ++ (0 : BitVec 1) ++ r) d = .outPageSelect x r d := by
  have bits : (x ++ (0 : BitVec 1) ++ r).extractLsb' 2 1 = 0 ∧ (x ++ (0 : BitVec 1) ++ r).extractLsb' 3 1 = x ∧
      (x ++ (0 : BitVec 1) ++ r).extractLsb' 0 2 = r := by revert x r; decide
  obtain ⟨select, high, low⟩ := bits
  rw [decodePagingPort, if_pos rfl, if_pos select, high, low]

theorem decodePagingPort_pagingEnable (x : BitVec 1) (y : BitVec 2) (d : Byte) :
    decodePagingPort true (x ++ (1 : BitVec 1) ++ y) d = .outPagingEnable x y d := by
  have bits : (x ++ (1 : BitVec 1) ++ y).extractLsb' 2 1 ≠ 0 ∧ (x ++ (1 : BitVec 1) ++ y).extractLsb' 3 1 = x ∧
      (x ++ (1 : BitVec 1) ++ y).extractLsb' 0 2 = y := by revert x y; decide
  obtain ⟨enable, high, low⟩ := bits
  rw [decodePagingPort, if_pos rfl, if_neg enable, high, low]

/-- A port byte without the paging nibble is not the block's. -/
theorem decodePort_of_nibble_ne {nib : BitVec 4} {port : Byte} (h : port.extractLsb' 4 4 ≠ nib) (wr : Bool) (d : Byte) :
    decodePort nib wr port d = .ioOther wr port d := by
  rw [decodePort, if_neg h]

/-! ### Page bytes (R78) -/

theorem decode_pageByteOf (cls : BitVec 3) (bank : BitVec 5) (lo : BitVec 14) :
    decode (.pageByte (pageByteOf cls bank) lo) =
      some (.act (if cls = 1 then .translateRam bank lo else if cls = 2 then .translateVideo bank lo
        else .translateRom cls bank lo)) :=
  congrArg (fun i => some (Move.act i)) (decodePage_pageByteOf cls bank lo)

/-! ### The encoder -/

/-- Settles O1: the coded form of each operation is the word its format's lemma reads back. -/
theorem decodeOfEncodeIsTheOperation : Obligations.DecodeOfEncodeIsTheOperation := by
  intro i x wf coded
  cases i <;> cases coded
  -- the rows of the flash command map
  case flashUnlock1 => exact decode_flashWord (decodeFlash_unlock1 wf)
  case flashUnlock2 => exact decode_flashWord (decodeFlash_unlock2 wf)
  case flashResetCommand lo => exact decode_flashWord (decodeFlash_resetCommand wf lo)
  case flashCmd =>
    obtain ⟨a5, nibble⟩ := Bool.and_eq_true_iff.mp wf
    exact decode_flashWord (decodeFlash_cmd a5 nibble)
  case flashProgram o d => exact decode_flashWord (decodeFlash_program o d)
  case flashEraseUnlock1 => exact decode_flashWord (decodeFlash_eraseUnlock1 wf)
  case flashEraseUnlock2 => exact decode_flashWord (decodeFlash_eraseUnlock2 wf)
  case flashChipErase => exact decode_flashWord (decodeFlash_chipErase wf)
  case flashSectorErase o => exact decode_flashWord (decodeFlash_sectorErase o)
  case flashBusyIgnore o d => exact decode_flashWord (decodeFlash_busyIgnore o d)
  case flashReset => exact decode_flashWord (decodeFlash_reset wf)
  -- the page bytes
  case translateRam bank lo => exact decode_pageByteOf 1 bank lo
  case translateVideo bank lo => exact decode_pageByteOf 2 bank lo
  case translateRom cls bank lo =>
    obtain ⟨notRam, notVideo⟩ := Bool.and_eq_true_iff.mp wf
    rw [decode_pageByteOf, if_neg (by simpa using notRam), if_neg (by simpa using notVideo)]
    rfl
  -- the event words
  case memRead a => exact decode_readWord a
  case memWrite a d => exact decode_writeWord a d
  case idleTick => exact decode_tickWord (of_decide_eq_true wf)
  case audioCallback => exact decode_callbackWord (of_decide_eq_true wf)
  -- the ports
  case outPageSelect x r d =>
    exact decode_portWord true (by simp) ((decodePort_portOf ..).trans (decodePagingPort_pageSelect x r d))
  case outPagingEnable x y d =>
    exact decode_portWord true (by simp) ((decodePort_portOf ..).trans (decodePagingPort_pagingEnable x y d))
  case inPaging low => exact decode_portWord false (fun _ => rfl) (decodePort_portOf _ low false 0)
  case ioOther wr port d =>
    obtain ⟨other, data⟩ := Bool.and_eq_true_iff.mp wf
    exact decode_portWord wr (fun read => by simpa [read] using data) (decodePort_of_nibble_ne (by simpa using other) wr d)
  -- the inputs that are no words
  all_goals rfl

/-- Settles O2: the encoder's own case distinction. -/
theorem operationsSelectedByStateHaveNoWord : Obligations.OperationsSelectedByStateHaveNoWord := by
  intro i
  cases i <;> simp [encode, encodeWith]

/-- Settles O3: each word is written out, so the decoder evaluates. -/
theorem specWordsDecode : Obligations.SpecWordsDecode :=
  ⟨rfl, rfl, rfl, rfl, rfl, rfl, rfl, rfl, rfl⟩

/-! ### Routing of the ports -/

/-- A write to a paging port, by port bit 2 and the fields of the whole port byte. -/
theorem decodePagingPort_write (nib low : BitVec 4) (d : Byte) :
    decodePagingPort true low d =
      if (portOf nib low).getLsbD 2 = false then
        .outPageSelect ((portOf nib low).extractLsb' 3 1) ((portOf nib low).extractLsb' 0 2) d
      else .outPagingEnable ((portOf nib low).extractLsb' 3 1) ((portOf nib low).extractLsb' 0 2) d := by
  have bits : ((portOf nib low).getLsbD 2 = false ↔ low.extractLsb' 2 1 = 0) ∧
      (portOf nib low).extractLsb' 3 1 = low.extractLsb' 3 1 ∧
      (portOf nib low).extractLsb' 0 2 = low.extractLsb' 0 2 := by revert nib low; decide
  obtain ⟨select, high, reg⟩ := bits
  simp only [decodePagingPort, if_true, select, high, reg]

/-- Settles O18: the paging nibble leads to the paging ports, and every other nibble, the keyboard's and the UART's among
them, leads out of the block. -/
theorem portsAreRoutedByTheirHighNibble : Obligations.PortsAreRoutedByTheirHighNibble := by
  intro wr nib low port d hport
  subst hport
  have other : nib ≠ Config.params.pagingPortNibble →
      decodePort Config.params.pagingPortNibble wr (portOf nib low) d = .ioOther wr (portOf nib low) d :=
    decodePort_other _ nib low wr d
  obtain ⟨keyboard, uart⟩ := Config.params.otherNibbles_ne
  refine ⟨fun hnib => ?_, other, fun hnib => ?_⟩
  · subst hnib
    rw [decodePort_portOf]
    refine ⟨fun hr => ?_, fun hw select => ?_, fun hw enable => ?_⟩
    · subst hr; rfl
    · subst hw; rw [decodePagingPort_write _ low, if_pos select]
    · subst hw; rw [decodePagingPort_write _ low, if_neg (by rw [enable]; decide)]
  · rcases hnib with rfl | rfl
    · exact other keyboard
    · exact other uart

/-! ### The parameters -/

/-- Settles O45: each bound is the constant the parameter is stored as a distance from. -/
theorem parametersMeetTheirConstraints : Obligations.ParametersMeetTheirConstraints := fun P =>
  ⟨Nat.le_add_right _ _, Nat.le_add_right _ _, Nat.succ_pos _, Nat.le_add_right _ _, Nat.succ_pos _,
    Nat.le_of_lt_succ P.audioMcrBit.isLt, Nat.le_add_left _ _, P.otherNibbles_ne⟩

end Sys2Proof.Machine
end

section
/-! PROOF. Memory requests, the paging ports and the host's operations (`40_paging.md` R101 to R108, `60_exceptions.md` R173
to R179): what each leaves unchanged, and what it does in each region. -/

namespace Sys2Proof.Machine

/-! ### What the operations leave unchanged -/

theorem SameBlock.refl (s : State) : SameBlock s s :=
  ⟨⟨rfl, rfl⟩, fun _ => rfl, fun _ => rfl, ⟨rfl, rfl, rfl, rfl⟩,
    ⟨⟨rfl, rfl, rfl, rfl⟩, rfl, rfl, rfl, rfl, rfl⟩, rfl, rfl, rfl⟩

/-- A draw touches the model's own record of answers and draws alone. -/
theorem State.answerDraw_sameBlock (P : Params) (s : State) : SameBlock s (s.answerDraw P) := SameBlock.refl s

theorem State.writeRam_frame (s : State) (o : Offset) (d : Byte) :
    SamePaging s (s.writeRam Config.params o d) ∧ SameRom s (s.writeRam Config.params o d) ∧
      SameFlashRegs s (s.writeRam Config.params o d) ∧ SameAudio s (s.writeRam Config.params o d) ∧
      SameTime s (s.writeRam Config.params o d) ∧ Silent s (s.writeRam Config.params o d) := by
  simp [SamePaging, SameRom, SameFlashRegs, SameAudio, SameRing, SameAudioRegs, SameTime, Silent]

theorem State.setPage_frame (s : State) (j : BitVec 2) (v : Byte) :
    SameRam s (s.setPage j v) ∧ SameRom s (s.setPage j v) ∧ SameFlashRegs s (s.setPage j v) ∧
      SameAudio s (s.setPage j v) ∧ SameTime s (s.setPage j v) ∧ Silent s (s.setPage j v) := by
  simp [SameRam, SameRom, SameFlashRegs, SameAudio, SameRing, SameAudioRegs, SameTime, Silent]

theorem State.setPe_frame (s : State) (b : Bool) :
    SameRam s (s.setPe b) ∧ SameRom s (s.setPe b) ∧ SameFlashRegs s (s.setPe b) ∧
      SameAudio s (s.setPe b) ∧ SameTime s (s.setPe b) ∧ Silent s (s.setPe b) := by
  simp [SameRam, SameRom, SameFlashRegs, SameAudio, SameRing, SameAudioRegs, SameTime, Silent]

/-! ### TRANSLATE by its rows (`30_encoding.md` R95) -/

/-- The row of a page byte answers what translation by that byte answers. -/
theorem exec_decodePage (p : Byte) (a : Addr) (s : State) :
    exec (decodePage p (lowOf a)) s = .next (s.answerTranslation (translateBy p a)) := by
  unfold decodePage translateBy regionOf
  split_ifs <;> rfl

/-- The offset of a bank and an address within it (`30_encoding.md` R79). -/
theorem bank_append_toNat (bank : BitVec 5) (lo : BitVec 14) :
    (bank ++ lo).toNat = bank.toNat * 0x4000 + lo.toNat := by
  rw [BitVec.toNat_append, ← Nat.shiftLeft_add_eq_or_of_lt lo.isLt, Nat.shiftLeft_eq]

/-- Settles O5: the three rows are answers at the same offset. -/
theorem translateRowsAnswerTheirRegion : Obligations.TranslateRowsAnswerTheirRegion := fun _ bank lo s =>
  ⟨_, _, _, bank ++ lo, bank_append_toNat bank lo, rfl, s.answer_answers _, s.answer_sameBlock _,
    rfl, s.answer_answers _, s.answer_sameBlock _, rfl, s.answer_answers _, s.answer_sameBlock _⟩

/-- Settles O6: with paging on, both sides answer the translation by the quadrant's page byte. -/
theorem translateIsTheRowOfThePageByte : Obligations.TranslateIsTheRowOfThePageByte := by
  intro a s on
  rw [exec_decodePage, ← State.translate_of_pe_true on]
  rfl

/-! ### Memory requests by region (`40_paging.md` R103, R104) -/

theorem exec_memRead_of_translate {s : State} {a : Addr} {r : Region × Offset} (h : s.translate a = r) :
    exec (.memRead a) s = .next (s.readAt Config.params a r) := h ▸ rfl

theorem exec_memWrite_of_translate {s : State} {a : Addr} {r : Region × Offset} (h : s.translate a = r) (d : Byte) :
    exec (.memWrite a d) s = .next (s.writeAt Config.params a r d) := h ▸ rfl

/-- Settles O7: a RAM read is one answer. -/
theorem ramReadReturnsTheByte : Obligations.RamReadReturnsTheByte := fun _ _ s h =>
  ⟨_, exec_memRead_of_translate h, s.answer_answers _, s.answer_sameBlock _⟩

theorem State.videoRead_absent {P : Params} (absent : P.videoPresent = false) (s : State) (a : Addr) (off : Offset) :
    s.videoRead P a off = s.answer (.byte P.videoAbsentReadValue) := by
  simp [State.videoRead, absent]

theorem State.videoRead_present {P : Params} (present : P.videoPresent = true) (s : State) (a : Addr) (off : Offset) :
    s.videoRead P a off = (s.answer (.videoRead a off s.now)).answerDraw P := by
  simp [State.videoRead, present]

theorem State.videoWrite_absent {P : Params} (absent : P.videoPresent = false) (s : State) (a : Addr) (off : Offset)
    (d : Byte) : s.videoWrite P a off d = s := by
  simp [State.videoWrite, absent]

theorem State.videoWrite_present {P : Params} (present : P.videoPresent = true) (s : State) (a : Addr) (off : Offset)
    (d : Byte) : s.videoWrite P a off d = s.answer (.videoWrite a off d s.now) := by
  simp [State.videoWrite, present]

theorem State.videoRead_sameBlock (s : State) (a : Addr) (off : Offset) :
    SameBlock s (s.videoRead Config.params a off) := by
  simp [SameBlock, SamePaging, SameRam, SameRom, SameFlashRegs, SameAudio, SameRing, SameAudioRegs, SameTime]

/-- A write that translates to VIDEO: handed over with a peripheral, dropped without one. -/
theorem State.videoWrite_effect (s : State) (a : Addr) (off : Offset) (d : Byte) :
    SameBlock s (s.videoWrite Config.params a off d) ∧
      (Config.params.videoPresent = false → Silent s (s.videoWrite Config.params a off d)) ∧
      (Config.params.videoPresent = true →
        Answers s (s.videoWrite Config.params a off d) [.videoWrite a off d s.now]) := by
  refine ⟨?_, fun absent => ?_, fun present => ?_⟩
  · simp [SameBlock, SamePaging, SameRam, SameRom, SameFlashRegs, SameAudio, SameRing, SameAudioRegs, SameTime]
  · rw [State.videoWrite_absent absent]; exact ⟨rfl, rfl⟩
  · rw [State.videoWrite_present present]; exact s.answer_answers _

/-- Settles O8: the two forms of a VIDEO read. -/
theorem videoReadIsTheDefaultOrADraw : Obligations.VideoReadIsTheDefaultOrADraw := by
  intro a off s h
  refine ⟨_, exec_memRead_of_translate h, s.videoRead_sameBlock a off, fun absent => ?_, fun present => ?_⟩
  · show Answers s (s.videoRead _ a off) _
    rw [State.videoRead_absent absent]
    exact s.answer_answers _
  · show (s.videoRead _ a off).out = _ ∧ (s.videoRead _ a off).draws = _
    rw [State.videoRead_present present]
    exact ⟨by simp, rfl⟩

/-- Settles O9: the ROM arms of a read and of a write are the sequencer's. -/
theorem romRequestsGoToTheSequencer : Obligations.RomRequestsGoToTheSequencer := fun _ d _ _ h =>
  ⟨exec_memRead_of_translate h, exec_memWrite_of_translate h d⟩

/-- How the bytes of RAM read after a write. -/
theorem State.writeRam_effect (s : State) (off : Offset) (d : Byte) :
    (s.writeRam Config.params off d).ramByte Config.params off.toNat = d ∧
      ∀ k, k ≠ off.toNat → (s.writeRam Config.params off d).ramByte Config.params k = s.ramByte Config.params k :=
  ⟨(s.writeRam_ramByte _ off d _).trans (if_pos rfl), fun k hk => (s.writeRam_ramByte _ off d k).trans (if_neg hk)⟩

/-- Settles O10: a RAM write is one `writeRam`. -/
theorem ramWriteStoresOneByte : Obligations.RamWriteStoresOneByte := by
  intro a d off s h
  obtain ⟨stored, others⟩ := s.writeRam_effect off d
  exact ⟨_, exec_memWrite_of_translate h d, stored, others, s.writeRam_frame off d⟩

/-- Settles O11: a VIDEO write is one `videoWrite`. -/
theorem videoWriteIsHandedOverOrDropped : Obligations.VideoWriteIsHandedOverOrDropped := fun a d off s h =>
  ⟨_, exec_memWrite_of_translate h d, s.videoWrite_effect a off d⟩

/-- Settles O12: the write leaves the translation as it was, so the read is of the written byte exactly if the offsets agree. -/
theorem ramReadsSeeTheLatestWrite : Obligations.RamReadsSeeTheLatestWrite := by
  intro a b d off off' s ha hb
  obtain ⟨stored, others⟩ := s.writeRam_effect off d
  have hb' : (s.writeRam Config.params off d).translate b = (.ram, off') :=
    (State.translate_congr (s.writeRam_frame off d).1 b).trans hb
  refine ⟨_, _, exec_memWrite_of_translate ha d, exec_memRead_of_translate hb', fun same => ?_, fun differ => ?_⟩
  · show s.out ++ [Answer.byte ((s.writeRam Config.params off d).ramByte Config.params off'.toNat)] = _
    rw [same, stored]
  · show s.out ++ [Answer.byte ((s.writeRam Config.params off d).ramByte Config.params off'.toNat)] = _
    rw [others _ fun e => differ (BitVec.eq_of_toNat_eq e)]

/-! ### The paging ports (`40_paging.md` R105 to R108) -/

/-- A page register is loaded and the other three stay. -/
theorem State.setPage_page (s : State) (j : BitVec 2) (v : Byte) :
    (s.setPage j v).page j = v ∧ ∀ k, k ≠ j → (s.setPage j v).page k = s.page k :=
  ⟨s.setPage_page_same j v, fun k hk => s.setPage_page_ne j k v (Ne.symm hk)⟩

/-- Settles O13: OUT_PAGE_SELECT is one `setPage`. -/
theorem pageSelectLoadsOneRegister : Obligations.PageSelectLoadsOneRegister := by
  intro x r d s
  obtain ⟨loaded, others⟩ := s.setPage_page r d
  exact ⟨_, rfl, loaded, others, rfl, s.setPage_frame r d⟩

/-- Settles O14: with paging on, translation looks at the page register of the address's quadrant alone. -/
theorem pageSelectGovernsTheNextAccess : Obligations.PageSelectGovernsTheNextAccess := by
  intro x r d a s on
  have on' : (s.setPage r d).pe = true := on
  obtain ⟨loaded, others⟩ := s.setPage_page r d
  refine ⟨_, rfl, fun same => ?_, fun differ => ?_⟩
  · rw [State.translate_of_pe_true on', same, loaded]
  · rw [State.translate_of_pe_true on', State.translate_of_pe_true on, others _ differ]

/-- Settles O15: OUT_PAGING_ENABLE is one `setPe` of data bit 0. -/
theorem pagingEnableLoadsBitZero : Obligations.PagingEnableLoadsBitZero := by
  intro x y d s
  have bit : d.getLsbD 0 = true ↔ d.toNat % 2 = 1 := by revert d; decide
  exact ⟨_, rfl, bit, rfl, s.setPe_frame _⟩

/-- Settles O16: IN_PAGING is one draw. -/
theorem pagingPortReadIsADraw : Obligations.PagingPortReadIsADraw := fun _ s =>
  ⟨_, rfl, rfl, rfl, s.answerDraw_sameBlock _⟩

/-- Settles O17: IO_OTHER is no change at all. -/
theorem otherPortsLeaveTheBlockAlone : Obligations.OtherPortsLeaveTheBlockAlone := fun _ _ _ s =>
  ⟨s, rfl, .refl s, rfl, rfl⟩

/-! ### The host (`60_exceptions.md` R173 to R179) -/

/-- Settles O40: each setter is one update. -/
theorem hostSettersWriteOneElement : Obligations.HostSettersWriteOneElement := by
  intro v b s
  refine ⟨⟨s.setVolume v, rfl, ?_⟩, ⟨s.setCapture b, rfl, ?_⟩, ⟨s.setPe b, rfl, ?_⟩⟩
  · simp [SameRing, SameRam, SameRom, SameFlashRegs, SameTime, Silent]
  · simp [SameRing, SameRam, SameRom, SameFlashRegs, SameTime, Silent]
  · obtain ⟨hram, hrom, hflash, haudio, htime, hsilent⟩ := s.setPe_frame b
    exact ⟨rfl, rfl, haudio, hram, hrom, hflash, htime, hsilent⟩

/-- Settles O41: HOST_SET_PAGE is the `setPage` of OUT_PAGE_SELECT. -/
theorem hostSetPageLoadsOneRegister : Obligations.HostSetPageLoadsOneRegister := by
  intro j v x s
  obtain ⟨loaded, others⟩ := s.setPage_page j v
  exact ⟨_, rfl, rfl, loaded, others, rfl, s.setPage_frame j v⟩

/-- The host's accesses go by the region of their own page byte. -/
theorem translateBy_of_region {p : Byte} {region : Region} (h : regionOf p = region) (a : Addr) :
    translateBy p a = (region, pagedOffset p a) := h ▸ rfl

/-- Settles O42: by the region of the page byte, the cases of a memory write. -/
theorem hostWriteGoesByItsPageByte : Obligations.HostWriteGoesByItsPageByte := by
  intro p a d s
  refine ⟨s.writeAt Config.params a (translateBy p a) d, pagedOffset p a, rfl, rfl, pagedOffset_toNat p a,
    fun ram => ?_, fun video => ?_, fun notRam notVideo => ?_⟩
  · rw [translateBy_of_region ((regionOf_eq_ram_iff p).mpr ram)]
    obtain ⟨stored, others⟩ := s.writeRam_effect (pagedOffset p a) d
    exact ⟨stored, others, s.writeRam_frame _ d⟩
  · rw [translateBy_of_region ((regionOf_eq_video_iff p).mpr video)]
    exact s.videoWrite_effect a _ d
  · rw [translateBy_of_region ((regionOf_eq_rom_iff p).mpr ⟨notRam, notVideo⟩)]
    rfl

theorem State.snapshot_sameBlock (s : State) (r : Region × Offset) : SameBlock s (s.snapshot Config.params r) := by
  simp [SameBlock, SamePaging, SameRam, SameRom, SameFlashRegs, SameAudio, SameRing, SameAudioRegs, SameTime]

/-- Settles O43: by the region of the page byte, the cases of a snapshot. -/
theorem hostReadIsRaw : Obligations.HostReadIsRaw := by
  intro p a s
  refine ⟨s.snapshot Config.params (translateBy p a), _, rfl, s.snapshot_sameBlock _, rfl,
    fun ram => ?_, fun video => ?_, fun notRam notVideo => ?_⟩
  · rw [translateBy_of_region ((regionOf_eq_ram_iff p).mpr ram), ← pagedOffset_toNat]
    exact s.answer_answers _
  · rw [translateBy_of_region ((regionOf_eq_video_iff p).mpr video)]
    exact ⟨rfl, rfl⟩
  · rw [translateBy_of_region ((regionOf_eq_rom_iff p).mpr ⟨notRam, notVideo⟩), ← pagedOffset_toNat]
    exact s.answer_answers _

end Sys2Proof.Machine
end

section
/-! PROOF. The sequencer as a whole (`41_flash.md`): the command map is the case analysis of FLASH_WRITE, its transition
table, the command sequences, and writes through the boot mapping. -/

namespace Sys2Proof.Machine

/-! ### The command map by state code (`30_encoding.md` R87), in the form of the case analysis of R112 -/

section Codes

variable (o : Offset) (d : Byte)

theorem isA5_eq (P : Params) : isA5 P o = matchesCommand P.cmdAddrMask o addrA5 := rfl

theorem isA2_eq (P : Params) : isA2 P o = matchesCommand P.cmdAddrMask o addrA2 := rfl

theorem decodeFlash_idle :
    decodeFlash (flashWordOf 0x00 o d) =
      if isA5 Config.params o && d == 0xAA then .flashUnlock1 o else .flashReset 0x00 o d := by
  simp [decodeFlash, decodeFlashWith_word, isA5_eq]

theorem decodeFlash_unlocked1 :
    decodeFlash (flashWordOf 0x01 o d) =
      if isA2 Config.params o && d == 0x55 then .flashUnlock2 o else .flashReset 0x01 o d := by
  simp [decodeFlash, decodeFlashWith_word, isA2_eq]

theorem decodeFlash_unlocked2 :
    decodeFlash (flashWordOf 0x02 o d) =
      if isA5 Config.params o && d &&& 0xF0 != 0 then .flashCmd o d
      else if isA5 Config.params o then .flashResetCommand o (d.extractLsb' 0 4) else .flashReset 0x02 o d := by
  cases a5 : isA5 Config.params o <;> rw [isA5_eq] at a5 <;> simp [decodeFlash, decodeFlashWith_word, a5]

theorem decodeFlash_eraseArmed :
    decodeFlash (flashWordOf 0x80 o d) =
      if isA5 Config.params o && d == 0xAA then .flashEraseUnlock1 o else .flashReset 0x80 o d := by
  simp [decodeFlash, decodeFlashWith_word, isA5_eq]

theorem decodeFlash_eraseUnlocked1 :
    decodeFlash (flashWordOf 0x81 o d) =
      if isA2 Config.params o && d == 0x55 then .flashEraseUnlock2 o else .flashReset 0x81 o d := by
  simp [decodeFlash, decodeFlashWith_word, isA2_eq]

theorem decodeFlash_eraseUnlocked2 :
    decodeFlash (flashWordOf 0x82 o d) =
      if isA5 Config.params o && d == 0x10 then .flashChipErase o
      else if d = 0x30 then .flashSectorErase o else .flashReset 0x82 o d := by
  simp [decodeFlash, decodeFlashWith_word, isA5_eq]

/-- No row but the last names a code outside the list. -/
theorem decodeFlash_unknown {code : Byte} (h : code ∉ [(0x00 : Byte), 0x01, 0x02, 0xA0, 0x80, 0x81, 0x82, 0x03]) :
    decodeFlash (flashWordOf code o d) = .flashReset code o d := by
  simp only [List.mem_cons, List.not_mem_nil, or_false, not_or, ← beq_eq_false_iff_ne] at h
  obtain ⟨h00, h01, h02, hA0, h80, h81, h82, h03⟩ := h
  exact decodeFlash_reset (by simp only [fallsToReset, h00, h01, h02, hA0, h80, h81, h82, h03]; rfl)

end Codes

/-- Every code is one of the eight the sequencer knows, or none of them. -/
theorem code_cases (c : Byte) :
    c = 0x00 ∨ c = 0x01 ∨ c = 0x02 ∨ c = 0xA0 ∨ c = 0x80 ∨ c = 0x81 ∨ c = 0x82 ∨ c = 0x03 ∨
      c ∉ [(0x00 : Byte), 0x01, 0x02, 0xA0, 0x80, 0x81, 0x82, 0x03] := by
  simp only [List.mem_cons, List.not_mem_nil, or_false]
  tauto

/-- The operation of the first row that takes a write does what the case analysis on `seq` does. -/
theorem exec_decodeFlash (o : Offset) (d : Byte) (s : State) :
    exec (decodeFlash (flashWordOf s.seq o d)) s = .next (s.flashStep Config.params o d) := by
  rcases code_cases s.seq with h | h | h | h | h | h | h | h | h
  · rw [State.flashStep_idle _ _ _ _ h, h, decodeFlash_idle]
    split <;> rfl
  · rw [State.flashStep_unlock1 _ _ _ _ h, h, decodeFlash_unlocked1]
    split <;> rfl
  · rw [State.flashStep_unlock2 _ _ _ _ h, h, decodeFlash_unlocked2]
    split_ifs <;> rfl
  · rw [State.flashStep_program _ _ _ _ h, h, decodeFlash_program]
    rfl
  · rw [State.flashStep_erase _ _ _ _ h, h, decodeFlash_eraseArmed]
    split <;> rfl
  · rw [State.flashStep_erase1 _ _ _ _ h, h, decodeFlash_eraseUnlocked1]
    split <;> rfl
  · rw [State.flashStep_erase2 _ _ _ _ h, h, decodeFlash_eraseUnlocked2]
    split_ifs <;> rfl
  · rw [State.flashStep_busy _ _ _ _ h, h, decodeFlash_busyIgnore]
    rfl
  · rw [State.flashStep_unknown _ _ _ _ h, decodeFlash_unknown _ _ h]
    rfl

/-- Settles O23: the command map selects what the case analysis does, in the state after the completion check. -/
theorem flashWriteIsTheCommandMap : Obligations.FlashWriteIsTheCommandMap := fun o d s =>
  ⟨s.settle, s.settle_eq, (exec_decodeFlash o d s.settle).symm⟩

/-! ### Reads and the end of an operation (R111, R113, R126) -/

/-- Settles O22: each of the two reads flips bit 6 of the mask once. -/
theorem successiveMaskedReadsDifferInBitSix : Obligations.SuccessiveMaskedReadsDifferInBitSix := by
  intro o s active busy
  have first : s.flashRead Config.params o = (s.answer (.byte (s.romByte Config.params o.toNat ^^^ s.tmask))).flipMask :=
    State.flashRead_of_busy _ o active busy
  have second := State.flashRead_of_busy Config.params (s := s.flashRead Config.params o) o
    (by rw [first]; exact active) (by simpa using busy)
  refine ⟨_, _, s.romByte Config.params o.toNat ^^^ s.tmask, rfl, rfl, ?_, ?_, ?_⟩
  · rw [second, first]
    simp [toggleFlip, BitVec.xor_assoc]
  · rw [second, first]
    simp
  · rw [second, first]
    exact active

theorem State.completeOperation_frame (s : State) :
    SamePaging s s.completeOperation ∧ SameRam s s.completeOperation ∧ SameRom s s.completeOperation ∧
      SameAudio s s.completeOperation ∧ SameTime s s.completeOperation ∧ Silent s s.completeOperation := by
  simp [SamePaging, SameRam, SameRom, SameAudio, SameRing, SameAudioRegs, SameTime, Silent]

/-- Settles O24: a done operation is completed first by either access, and there is nothing left to complete after it. -/
theorem flashCompleteReturnsToIdle : Obligations.FlashCompleteReturnsToIdle := by
  intro o d s
  obtain ⟨hpaging, hram, hrom, haudio, htime, hsilent⟩ := s.completeOperation_frame
  refine ⟨_, rfl, rfl, rfl, rfl, rfl, hpaging, hram, hrom, haudio, htime, hsilent, fun active done => ⟨?_, ?_⟩⟩
  · show Host.Outcome.next (s.flashRead _ o) = .next (s.completeOperation.flashRead _ o)
    rw [State.flashRead_of_done _ o active done, State.flashRead_of_idle _ o rfl]
    rfl
  · show Host.Outcome.next (s.flashWrite _ o d) = .next (s.completeOperation.flashWrite _ o d)
    rw [State.flashWrite_of_idle _ _ _ _ s.completeOperation_active, State.flashWrite, s.settle_of_done active done]

/-- Settles O31: before the deadline the completion check does nothing, and in state 3 neither does the case analysis. -/
theorem writesWhileBusyAreIgnored : Obligations.WritesWhileBusyAreIgnored := by
  refine fun o d s => ⟨⟨s, rfl, .refl s, rfl, rfl⟩, fun code busy => ?_⟩
  show Host.Outcome.next (s.flashWrite _ o d) = .next s
  rw [State.flashWrite, s.settle_of_busy busy, State.flashStep_busy _ _ _ _ code]

/-! ### The transition table (R124) -/

/-- What a write does beside the code and ROM. -/
theorem State.flashWrite_frame (s : State) (o : Offset) (d : Byte) :
    (s.flashWrite Config.params o d).tmask = s.tmask ∧ SamePaging s (s.flashWrite Config.params o d) ∧
      SameRam s (s.flashWrite Config.params o d) ∧ SameAudio s (s.flashWrite Config.params o d) ∧
      SameTime s (s.flashWrite Config.params o d) ∧ Silent s (s.flashWrite Config.params o d) := by
  simp [SamePaging, SameRam, SameAudio, SameRing, SameAudioRegs, SameTime, Silent]

/-- The code after the completion check, by the code and the deadline before it (R112). -/
theorem FlashOk.settle_seq {s : State} (h : FlashOk s) :
    (s.seq = 0x03 → s.deadline ≤ s.now → s.settle.seq = 0x00) ∧
      ((s.seq = 0x03 → s.now < s.deadline) → s.settle.seq = s.seq) := by
  refine ⟨fun code done => ?_, fun busy => ?_⟩
  · rw [s.settle_of_done (h.busy.mpr code) done]; rfl
  · by_cases active : s.active = true
    · rw [s.settle_of_busy (busy (h.busy.mp active))]
    · rw [s.settle_of_idle (by simpa using active)]

theorem State.romByte_congr {P : Params} {s t : State} (hr : t.rom = s.rom) (he : t.romErased = s.romErased) (k : Nat) :
    t.romByte P k = s.romByte P k := by
  unfold State.romByte State.romUnlisted
  simp only [hr, he]

/-- A write in a code other than 0xA0 and 0x82 changes no ROM byte and keeps the deadline (R127). -/
theorem State.flashStep_keeps_rom (P : Params) (s : State) (o : Offset) (d : Byte) (h : s.seq ≠ 0xA0) (h' : s.seq ≠ 0x82) :
    (∀ k, (s.flashStep P o d).romByte P k = s.romByte P k) ∧ (s.flashStep P o d).deadline = s.deadline := by
  obtain ⟨hrom, herased, hdeadline, -⟩ := s.flashStep_rom P o d h h'
  exact ⟨State.romByte_congr hrom herased, hdeadline⟩

section Rows

variable (s : State) (o : Offset) (d : Byte)

/-- A row that goes on to `next` on the byte `b` at a command address, and to 0 on every other write. -/
theorem unlockRow_seq {A : Bool} {a : Prop} (ha : A = true ↔ a) (b next : Byte) :
    (a ∧ d = b → (if A && d == b then s.setSeq next else s.setSeq 0x00).seq = next) ∧
      (¬(a ∧ d = b) → (if A && d == b then s.setSeq next else s.setSeq 0x00).seq = 0x00) := by
  have test : (A && d == b) = true ↔ a ∧ d = b := by rw [Bool.and_eq_true, ha, beq_iff_eq]
  exact ⟨fun h => by rw [if_pos (test.mpr h)]; rfl, fun h => by rw [if_neg (mt test.mp h)]; rfl⟩

/-- The row of state 2: a command byte with a high nibble is stored (R116). -/
theorem commandRow_seq {A : Bool} {a : Prop} (ha : A = true ↔ a) :
    (a ∧ 16 ≤ d.toNat → (if A && d &&& 0xF0 != 0 then s.setSeq d else s.setSeq 0x00).seq = d) ∧
      (¬(a ∧ 16 ≤ d.toNat) → (if A && d &&& 0xF0 != 0 then s.setSeq d else s.setSeq 0x00).seq = 0x00) := by
  have test : (A && d &&& 0xF0 != 0) = true ↔ a ∧ 16 ≤ d.toNat := by rw [Bool.and_eq_true, ha, highNibble_iff]
  exact ⟨fun h => by rw [if_pos (test.mpr h)]; rfl, fun h => by rw [if_neg (mt test.mp h)]; rfl⟩

/-- The row of state 0x82: chip erase, sector erase, or back to 0. -/
theorem eraseRow_cases {A : Bool} {a : Prop} (ha : A = true ↔ a) (x y z : State) :
    (a ∧ d = 0x10 → (if A && d == 0x10 then x else if d = 0x30 then y else z) = x) ∧
      (d = 0x30 → (if A && d == 0x10 then x else if d = 0x30 then y else z) = y) ∧
      (¬(a ∧ d = 0x10) → d ≠ 0x30 → (if A && d == 0x10 then x else if d = 0x30 then y else z) = z) := by
  have test : (A && d == 0x10) = true ↔ a ∧ d = 0x10 := by rw [Bool.and_eq_true, ha, beq_iff_eq]
  refine ⟨fun h => if_pos (test.mpr h), fun h => ?_, fun h h' => ?_⟩
  · rw [if_neg (by rw [h]; simp), if_pos h]
  · rw [if_neg (mt test.mp h), if_neg h']

end Rows

/-- Settles O32: each row is the case analysis on the code after the completion check, and the frame holds in all rows. -/
theorem transitionTableOfTheSequencer : Obligations.TransitionTableOfTheSequencer := by
  intro o d s ok
  have a5 := isA5_iff Config.params o
  have a2 := isA2_iff Config.params o
  obtain ⟨done, kept⟩ := ok.settle_seq
  have rom : ∀ k, s.settle.romByte Config.params k = s.romByte Config.params k := s.settle_romByte _
  refine ⟨s.settle.flashStep Config.params o d, s.settle.seq, _, _, Iff.rfl, Iff.rfl, rfl, done, kept,
    fun code => ?idle, fun code => ?unlocked1, fun code => ?unlocked2, fun code => ?program, fun code => ?eraseArmed,
    fun code => ?eraseUnlocked1, fun code => ?eraseUnlocked2, fun code => ?busy, fun code => ?unknown,
    fun notProgram notErase => ?keeps, (ok.flashWrite Config.params o d).busy, s.flashWrite_frame o d⟩
  case idle => rw [State.flashStep_idle _ _ _ _ code]; exact unlockRow_seq _ d a5 0xAA 0x01
  case unlocked1 => rw [State.flashStep_unlock1 _ _ _ _ code]; exact unlockRow_seq _ d a2 0x55 0x02
  case unlocked2 => rw [State.flashStep_unlock2 _ _ _ _ code]; exact commandRow_seq _ d a5
  case program =>
    rw [State.flashStep_program _ _ _ _ code]
    refine ⟨rfl, (State.flashProgram_romByte ..).trans (if_pos rfl), fun k hk => ?_, ?_⟩
    · exact (State.flashProgram_romByte ..).trans ((if_neg hk).trans (rom k))
    · exact congrArg (· + _) s.settle_now
  case eraseArmed => rw [State.flashStep_erase _ _ _ _ code]; exact unlockRow_seq _ d a5 0xAA 0x81
  case eraseUnlocked1 => rw [State.flashStep_erase1 _ _ _ _ code]; exact unlockRow_seq _ d a2 0x55 0x82
  case eraseUnlocked2 =>
    rw [State.flashStep_erase2 _ _ _ _ code]
    obtain ⟨chip, sector, other⟩ := eraseRow_cases d a5 (s.settle.flashChipErase Config.params)
      (s.settle.flashSectorErase Config.params o) (s.settle.setSeq 0x00)
    refine ⟨fun h => ?_, fun h => ?_, fun h h' => ?_⟩
    · rw [chip h]
      exact ⟨rfl, fun k _ => State.flashChipErase_romByte _ _ k, congrArg (· + _) s.settle_now⟩
    · rw [sector h]
      refine ⟨rfl, fun k hk => (State.flashSectorErase_romByte ..).trans (if_pos hk), fun k hk => ?_,
        congrArg (· + _) s.settle_now⟩
      exact (State.flashSectorErase_romByte ..).trans ((if_neg hk).trans (rom k))
    · rw [other h h']
      exact ⟨rfl, rom, s.settle_deadline⟩
  case busy => rw [State.flashStep_busy _ _ _ _ code]; exact code
  case unknown => rw [State.flashStep_unknown _ _ _ _ code]; rfl
  case keeps =>
    obtain ⟨hrom, hdeadline⟩ := State.flashStep_keeps_rom Config.params s.settle o d notProgram notErase
    exact ⟨fun k => (hrom k).trans (rom k), hdeadline.trans s.settle_deadline⟩

/-! ### Command sequences (`30_encoding.md` R88) -/

section Sequences

variable {P : Params} {s : State} {a5 a2 : Offset}

theorem State.setSeq_flashWrite (idle : s.active = false) {c : Byte} {x : Offset} {d : Byte} :
    (s.setSeq c).flashWrite P x d = (s.setSeq c).flashStep P x d := State.flashWrite_of_idle _ _ _ _ idle

/-- The two unlock writes, from idle. -/
theorem State.flashWrite_unlock (h5 : isA5 P a5 = true) (h2 : isA2 P a2 = true) (idle : s.active = false)
    (code : s.seq = 0x00) : (s.flashWrite P a5 0xAA).flashWrite P a2 0x55 = s.setSeq 0x02 := by
  have first : s.flashWrite P a5 0xAA = s.setSeq 0x01 := by
    rw [s.flashWrite_of_idle _ _ _ idle, s.flashStep_idle _ _ _ code, h5]; rfl
  have second : (s.setSeq 0x01).flashWrite P a2 0x55 = s.setSeq 0x02 := by
    rw [State.setSeq_flashWrite idle, State.flashStep_unlock1 _ _ _ _ rfl, h2]; rfl
  rw [first, second]

/-- The command byte, after the unlock writes. -/
theorem State.flashWrite_command (h5 : isA5 P a5 = true) (idle : s.active = false) {c : Byte} (high : 16 ≤ c.toNat) :
    (s.setSeq 0x02).flashWrite P a5 c = s.setSeq c := by
  rw [State.setSeq_flashWrite idle, State.flashStep_unlock2 _ _ _ _ rfl, h5, (highNibble_iff c).mpr high]
  rfl

/-- The two unlock writes of an erase. -/
theorem State.flashWrite_eraseUnlock (h5 : isA5 P a5 = true) (h2 : isA2 P a2 = true) (idle : s.active = false) :
    ((s.setSeq 0x80).flashWrite P a5 0xAA).flashWrite P a2 0x55 = s.setSeq 0x82 := by
  have first : (s.setSeq 0x80).flashWrite P a5 0xAA = s.setSeq 0x81 := by
    rw [State.setSeq_flashWrite idle, State.flashStep_erase _ _ _ _ rfl, h5]; rfl
  have second : (s.setSeq 0x81).flashWrite P a2 0x55 = s.setSeq 0x82 := by
    rw [State.setSeq_flashWrite idle, State.flashStep_erase1 _ _ _ _ rfl, h2]; rfl
  rw [first, second]

/-- The last write of each sequence, in the state its command has reached. -/
theorem State.flashWrite_program (idle : s.active = false) (x : Offset) (d : Byte) :
    (s.setSeq 0xA0).flashWrite P x d = (s.setSeq 0xA0).flashProgram P x d := by
  rw [State.setSeq_flashWrite idle, State.flashStep_program _ _ _ _ rfl]

theorem State.flashWrite_sectorErase (idle : s.active = false) (x : Offset) :
    (s.setSeq 0x82).flashWrite P x 0x30 = (s.setSeq 0x82).flashSectorErase P x := by
  rw [State.setSeq_flashWrite idle, State.flashStep_erase2 _ _ _ _ rfl, if_neg (by simp), if_pos rfl]

theorem State.flashWrite_chipErase (h5 : isA5 P a5 = true) (idle : s.active = false) :
    (s.setSeq 0x82).flashWrite P a5 0x10 = (s.setSeq 0x82).flashChipErase P := by
  rw [State.setSeq_flashWrite idle, State.flashStep_erase2 _ _ _ _ rfl, h5]
  rfl

theorem State.flashWrite_unknown (idle : s.active = false) {c : Byte}
    (h : c ∉ [(0x00 : Byte), 0x01, 0x02, 0xA0, 0x80, 0x81, 0x82, 0x03]) (x : Offset) (d : Byte) :
    (s.setSeq c).flashWrite P x d = s.setSeq 0x00 := by
  rw [State.setSeq_flashWrite idle, State.flashStep_unknown _ _ _ _ h]
  rfl

end Sequences

/-- A ROM write in a list of operations. -/
theorem execAll_flashWrite (o : Offset) (d : Byte) (is : List Instr) (s : State) :
    execAll (.flashWrite o d :: is) s = execAll is (s.flashWrite Config.params o d) := rfl

/-- Settles O33: the writes before the last bring the sequencer to the command's code and change nothing else. -/
theorem commandSequencesDoWhatTheyName : Obligations.CommandSequencesDoWhatTheyName := by
  intro a5 a2 x d c s ha5 ha2 code idle
  have h5 : isA5 Config.params a5 = true := (isA5_iff _ _).mpr ha5
  have h2 : isA2 Config.params a2 = true := (isA2_iff _ _).mpr ha2
  have command {c : Byte} (high : 16 ≤ c.toNat) (is : List Instr) :
      execAll (.flashWrite a5 0xAA :: .flashWrite a2 0x55 :: .flashWrite a5 c :: is) s = execAll is (s.setSeq c) := by
    simp only [execAll_flashWrite]
    rw [State.flashWrite_unlock h5 h2 idle code, State.flashWrite_command h5 idle high]
  have erase (is : List Instr) : execAll (.flashWrite a5 0xAA :: .flashWrite a2 0x55 :: .flashWrite a5 0x80 ::
      .flashWrite a5 0xAA :: .flashWrite a2 0x55 :: is) s = execAll is (s.setSeq 0x82) := by
    rw [command (by decide)]
    simp only [execAll_flashWrite]
    rw [State.flashWrite_eraseUnlock h5 h2 idle]
  refine ⟨?program, ?sector, ?chip, fun high hA0 h80 h81 h82 => ?unknown⟩
  case program =>
    rw [command (by decide), execAll_flashWrite, State.flashWrite_program idle]
    exact ⟨_, rfl, (State.flashProgram_romByte ..).trans (if_pos rfl),
      fun k hk => (State.flashProgram_romByte ..).trans (if_neg hk), rfl, rfl, rfl⟩
  case sector =>
    rw [erase, execAll_flashWrite, State.flashWrite_sectorErase idle]
    exact ⟨_, rfl, fun k hk => (State.flashSectorErase_romByte ..).trans (if_pos hk),
      fun k hk => (State.flashSectorErase_romByte ..).trans (if_neg hk), rfl, rfl, rfl⟩
  case chip =>
    rw [erase, execAll_flashWrite, State.flashWrite_chipErase h5 idle]
    exact ⟨_, rfl, fun k _ => State.flashChipErase_romByte _ _ k, rfl, rfl, rfl⟩
  case unknown =>
    have small : ∀ b : Byte, b.toNat < 16 → c ≠ b := fun b hb e => by subst e; omega
    have unknown : c ∉ [(0x00 : Byte), 0x01, 0x02, 0xA0, 0x80, 0x81, 0x82, 0x03] := by
      simp only [List.mem_cons, List.not_mem_nil, or_false, not_or]
      exact ⟨small _ (by decide), small _ (by decide), small _ (by decide), hA0, h80, h81, h82, small _ (by decide)⟩
    refine ⟨s.setSeq c, s.setSeq 0x00, command high [], rfl, fun _ => rfl, ?_, rfl, fun _ => rfl⟩
    exact congrArg Host.Outcome.next (State.flashWrite_unknown idle unknown x d)

/-! ### Writes through the boot mapping (R132) -/

theorem unpagedOffset_bit14 (a : Addr) : (unpagedOffset a).getLsbD 14 = false :=
  Nat.testBit_lt_two_pow (by rw [unpagedOffset_toNat]; omega)

/-- With paging off an address can only match the first command address where bit 14 is not compared. -/
theorem mask_bit14_of_unpaged {P : Params} {a : Addr} (h : isA5 P (unpagedOffset a) = true) :
    P.cmdAddrMask.getLsbD 14 = false := by
  have bit : (unpagedOffset a &&& P.cmdAddrMask).getLsbD 14 = ((0x05555 : Offset) &&& P.cmdAddrMask).getLsbD 14 :=
    congrArg (·.getLsbD 14) ((isA5_iff P _).mp h)
  rw [BitVec.getLsbD_and, BitVec.getLsbD_and, unpagedOffset_bit14, Bool.false_and] at bit
  exact bit.symm

/-- Settles O34: the write reaches the idle sequencer, where it is the first unlock write or changes nothing. -/
theorem bootMappingIsWriteSafe : Obligations.BootMappingIsWriteSafe := by
  intro a d s off code idle
  have write : exec (.memWrite a d) s = .next (s.flashStep Config.params (unpagedOffset a) d) :=
    (exec_memWrite_of_translate (State.translate_of_pe_false off a) d).trans
      (congrArg Host.Outcome.next (s.flashWrite_of_idle _ _ _ idle))
  refine ⟨_, write, ?_⟩
  rw [s.flashStep_idle _ _ _ code]
  split
  · rename_i unlock
    obtain ⟨a5, hd⟩ := Bool.and_eq_true_iff.mp unlock
    exact ⟨⟨rfl, rfl⟩, fun _ => rfl, .inr ⟨mask_bit14_of_unpaged a5, by simpa using hd, rfl⟩⟩
  · obtain ⟨hactive, hdeadline, hmask, hpaging, hram, hrom, haudio, htime, hsilent⟩ := s.setSeq_frame 0x00
    exact ⟨hsilent, hrom, .inl ⟨hpaging, hram, hrom, ⟨code.symm, hactive, hdeadline, hmask⟩, haudio, htime⟩⟩

end Sys2Proof.Machine
end

section
/-! PROOF. The audio sampler and idle ticks (`42_audio.md`, `40_paging.md` R109): the producer's schedule, and the ring
buffer as a queue of undelivered samples. -/

namespace Sys2Proof.Machine

/-! ### AUDIO_SAMPLE (R142) -/

/-- What AUDIO_SAMPLE never changes. -/
theorem State.sampleAudio_frame (s : State) :
    (s.sampleAudio Config.params).last = s.last ∧ (s.sampleAudio Config.params).volume = s.volume ∧
      (s.sampleAudio Config.params).captureOn = s.captureOn ∧ (s.sampleAudio Config.params).capture = s.capture ∧
      SamePaging s (s.sampleAudio Config.params) ∧ SameRam s (s.sampleAudio Config.params) ∧
      SameRom s (s.sampleAudio Config.params) ∧ SameFlashRegs s (s.sampleAudio Config.params) ∧
      SameTime s (s.sampleAudio Config.params) ∧ Silent s (s.sampleAudio Config.params) := by
  simp [SamePaging, SameRam, SameRom, SameFlashRegs, SameTime, Silent]

/-- Settles O39: before the sample is due nothing happens, and then the push and the schedule's advance. -/
theorem sampleIsTakenWhenDue : Obligations.SampleIsTakenWhenDue := by
  intro s
  refine ⟨_, s.pushSample Config.params (s.sampleNow Config.params), rfl, rfl, fun early => ?_, fun due => ?_⟩
  · rw [State.sampleAudio_early early]
    exact ⟨.refl s, rfl, rfl⟩
  · refine ⟨?_, ?_, s.sampleAudio_frame⟩
    · rw [State.sampleAudio_due due]
      exact ⟨rfl, rfl, rfl, rfl⟩
    · rw [State.sampleAudio_due due]
      rfl

/-! ### Idle ticks -/

/-- Settles O19: idle ticks are ticks one after the other, and each ends with an AUDIO_SAMPLE. -/
theorem idleTicksAdvanceTimeAndSample : Obligations.IdleTicksAdvanceTimeAndSample := by
  intro n s
  refine ⟨rfl, s.idleTicks Config.params n, _, rfl, rfl, congrArg Host.Outcome.next (s.idleTicks_succ _ n),
    s.idleTicks_now _ n, ?_⟩
  simp [SamePaging, SameRam, SameRom, SameFlashRegs, Silent]

/-- Idle ticks keep the schedule in phase with the period. -/
theorem ScheduleOk.idleTicks {s : State} (h : ScheduleOk s) (n : Nat) : ScheduleOk (s.idleTicks Config.params n) := by
  induction n generalizing s with
  | zero => exact h
  | succ n ih => exact ih (State.endTick_schedule h (s.beginTick_now _) (s.beginTick_nextSample _))

/-- A sample falls due in the next tick exactly if a period ends in it. -/
theorem ScheduleOk.periods_after_tick {s : State} (h : ScheduleOk s) :
    (s.now + Config.params.clockCyclePs) / Config.params.samplePeriodPs =
      s.now / Config.params.samplePeriodPs +
        if s.nextSample ≤ s.now + Config.params.clockCyclePs then 1 else 0 := by
  have hp := period_pos
  have hc := clock_le_period
  unfold ScheduleOk at h
  rw [h]
  generalize Config.params.samplePeriodPs = p at *
  generalize Config.params.clockCyclePs = c at *
  have below : s.now < p * (s.now / p + 1) := Nat.lt_mul_div_succ s.now hp
  have above : p * (s.now / p) ≤ s.now := Nat.mul_div_le s.now p
  split
  · rename_i due
    refine Nat.div_eq_of_lt_le (by rwa [Nat.mul_comm]) ?_
    calc s.now + c < p * (s.now / p + 1) + p := by omega
      _ = (s.now / p + 1 + 1) * p := by ring
  · refine Nat.div_eq_of_lt_le ?_ ?_
    · rw [Nat.add_zero, Nat.mul_comm]; omega
    · rw [Nat.add_zero, Nat.mul_comm]; omega

/-- A push adds one undelivered sample, up to the capacity. -/
theorem State.pushSample_avail {P : Params} {s : State} (x : Sample) (h : s.avail ≤ P.audioCap) :
    (s.pushSample P x).avail = min P.audioCap (s.avail + 1) := by
  by_cases room : s.avail < P.audioCap
  · obtain ⟨-, -, stored⟩ := State.pushSample_stores x room
    rw [stored]; omega
  · rw [State.pushSample_full x (by omega)]; omega

/-- A tick adds one undelivered sample if a sample falls due in it, up to the capacity. -/
theorem State.tick_avail {P : Params} {s : State} (h : s.avail ≤ P.audioCap) :
    ((s.beginTick P).endTick P).avail =
      min P.audioCap (s.avail + if s.nextSample ≤ s.now + P.clockCyclePs then 1 else 0) := by
  rw [State.endTick]
  split
  · rename_i due
    rw [State.sampleAudio_due due]
    exact State.pushSample_avail _ h
  · rename_i early
    rw [State.sampleAudio_early (show s.now + P.clockCyclePs < s.nextSample by omega)]
    exact (Nat.min_eq_right h).symm

/-- The undelivered samples grow by the periods that end in the ticks, up to the capacity. -/
theorem State.idleTicks_avail {s : State} (schedule : ScheduleOk s) (h : s.avail ≤ Config.params.audioCap) (n : Nat) :
    (s.idleTicks Config.params n).avail = min Config.params.audioCap
      (s.avail + ((s.now + n * Config.params.clockCyclePs) / Config.params.samplePeriodPs -
        s.now / Config.params.samplePeriodPs)) := by
  induction n with
  | zero => simp [State.idleTicks, h]
  | succ n ih =>
    have full : (s.idleTicks Config.params n).avail ≤ Config.params.audioCap := by rw [ih]; exact Nat.min_le_left _ _
    have periods := (schedule.idleTicks n).periods_after_tick
    rw [s.idleTicks_now] at periods
    have start : s.now / Config.params.samplePeriodPs ≤
        (s.now + n * Config.params.clockCyclePs) / Config.params.samplePeriodPs :=
      Nat.div_le_div_right (Nat.le_add_right _ _)
    rw [State.idleTicks_succ, State.tick_avail full, ih, Nat.add_mul, Nat.one_mul, ← Nat.add_assoc, periods, s.idleTicks_now]
    omega

/-- Settles O20: the schedule stays in phase, and the count follows the periods. -/
theorem idleTicksSampleOncePerPeriod : Obligations.IdleTicksSampleOncePerPeriod := fun n _ schedule h =>
  ⟨_, rfl, schedule.idleTicks n, State.idleTicks_avail schedule h n⟩

/-! ### AUDIO_POP and the queue (R146 to R149) -/

/-- What AUDIO_POP never changes. -/
theorem State.popSample_frame (s : State) :
    SamePaging s (s.popSample Config.params) ∧ SameRam s (s.popSample Config.params) ∧
      SameRom s (s.popSample Config.params) ∧ SameFlashRegs s (s.popSample Config.params) ∧
      SameTime s (s.popSample Config.params) := by
  simp [SamePaging, SameRam, SameRom, SameFlashRegs, SameTime]

/-- Settles O36: with samples waiting the one at the read cursor, with none the last one again. -/
theorem popDeliversTheOldestOrRepeats : Obligations.PopDeliversTheOldestOrRepeats := by
  intro s ok
  refine ⟨_, s.nextOut, rfl, (s.popSample _).answer_answers _, fun waiting => ?_, fun empty => ?_, fun on => ?_,
    fun off => ?_, rfl, rfl, rfl, rfl, rfl, s.popSample_frame⟩
  · exact ⟨(State.undelivered_succ ok waiting).2, if_pos waiting, rfl, rfl⟩
  · have none : ¬0 < s.avail := by omega
    have repeated : s.nextOut = s.last := if_neg none
    exact ⟨repeated, if_neg none, by simp [empty], repeated⟩
  · exact if_pos on
  · exact if_neg (by rw [off]; decide)

/-- Settles O37: the effect of push and pop on the list of undelivered samples. -/
theorem ringBufferIsABoundedQueue : Obligations.RingBufferIsABoundedQueue := by
  intro x s ok
  refine ⟨⟨_, rfl, State.pushSample_ring ok x, ?_⟩,
    ⟨_, rfl, (State.popSample_ring ok).congr ⟨rfl, rfl, rfl, rfl⟩, State.popSample_undelivered ok⟩⟩
  rw [State.undelivered_length]
  split
  · rename_i room
    exact (State.pushSample_room ok x room).2
  · rename_i full
    rw [State.pushSample_full x (Nat.le_of_not_lt full)]

/-! ### AUDIO_CALLBACK (R148) -/

/-- What `n` pops deliver from the queue `q` when `last` was delivered last. -/
def delivered (n : Nat) (q : List Sample) (last : Sample) : List Sample :=
  q.take n ++ List.replicate (n - q.length) (q.getLastD last)

/-- The first sample delivered is that of the first pop, the others are those of the pops after it. -/
theorem delivered_succ (n : Nat) (q : List Sample) (last : Sample) :
    delivered (n + 1) q last = q.headD last :: delivered n q.tail (q.headD last) := by
  cases q with
  | nil => simp [delivered, List.replicate_succ]
  | cons x q =>
    simp only [delivered, List.take_succ_cons, List.length_cons, Nat.add_sub_add_right, List.getLastD_cons, List.headD_cons,
      List.tail_cons, List.cons_append]

theorem delivered_length (n : Nat) (q : List Sample) (last : Sample) : (delivered n q last).length = n := by
  simp [delivered]
  omega

/-- The samples of `n` pops, by the queue. -/
theorem State.popSamples_delivered {s : State} (ok : RingOk s) (n : Nat) :
    (s.popSamples Config.params n).1 = delivered n s.undelivered s.last := by
  induction n generalizing s with
  | zero => simp [State.popSamples, delivered]
  | succ n ih =>
    obtain ⟨tail, head⟩ := State.popSample_undelivered ok
    rw [delivered_succ, ← head, ← tail, ← s.popSample_last Config.params, ← ih (State.popSample_ring ok)]
    rfl

/-- What `n` pops leave in the queue. -/
theorem State.popSamples_undelivered {s : State} (ok : RingOk s) (n : Nat) :
    (s.popSamples Config.params n).2.undelivered = s.undelivered.drop n := by
  induction n generalizing s with
  | zero => rfl
  | succ n ih =>
    rw [State.popSamples, ih (State.popSample_ring ok), (State.popSample_undelivered ok).1, List.drop_tail]

/-- The last sample delivered, and the capture sink, after `n` pops. -/
theorem State.popSamples_last (P : Params) (s : State) (n : Nat) :
    (s.popSamples P n).2.last = (s.popSamples P n).1.getLastD s.last := by
  induction n generalizing s with
  | zero => rfl
  | succ n ih => exact (ih (s.popSample P)).trans List.getLastD_cons.symm

theorem State.popSamples_capture (P : Params) (s : State) (n : Nat) :
    (s.popSamples P n).2.capture = if s.captureOn then s.capture ++ (s.popSamples P n).1 else s.capture := by
  induction n generalizing s with
  | zero => simp [State.popSamples]
  | succ n ih =>
    rw [State.popSamples, ih]
    cases on : s.captureOn <;> simp [on]

/-- What AUDIO_CALLBACK never changes. -/
theorem State.popSamples_frame (s : State) (n : Nat) :
    SamePaging s (s.popSamples Config.params n).2 ∧ SameRam s (s.popSamples Config.params n).2 ∧
      SameRom s (s.popSamples Config.params n).2 ∧ SameFlashRegs s (s.popSamples Config.params n).2 ∧
      SameTime s (s.popSamples Config.params n).2 := by
  simp [SamePaging, SameRam, SameRom, SameFlashRegs, SameTime]

/-- Settles O38: `n` pops deliver from the queue in order and then repeat. -/
theorem callbackDeliversInOrderThenRepeats : Obligations.CallbackDeliversInOrderThenRepeats := by
  intro n s ok
  have capture := s.popSamples_capture Config.params n
  have samples := State.popSamples_delivered ok n
  refine ⟨_, (s.popSamples Config.params n).1, rfl, ?answers, ?samples, ?length,
    (RingOk.popSamples n ok).congr ⟨rfl, rfl, rfl, rfl⟩, State.popSamples_undelivered ok n, s.popSamples_last _ n,
    fun on => ?on, fun off => ?off, s.popSamples_buf _ n, s.popSamples_wr _ n, s.popSamples_nextSample _ n,
    s.popSamples_volume _ n, s.popSamples_captureOn _ n, s.popSamples_frame n⟩
  case answers => simp [Answers]
  case samples => rw [samples, delivered, State.undelivered_length]
  case length => rw [samples, delivered_length]
  case on => exact capture.trans (if_pos on)
  case off => exact capture.trans (if_neg (by rw [off]; decide))

end Sys2Proof.Machine
end

section
/-! PROOF. A step of the machine (`20_memory.md` R46, `60_exceptions.md` R160, R165): which input it runs, and, once for all
inputs, what it can do to the state. -/

namespace Sys2Proof.Machine

/-! ### Steps by the input that is taken -/

theorem step_of_no_input {s : State} (h : s.inputs = []) : step s = exec (.idleTick 1) (s.take []) := by
  rw [step, h]

theorem step_of_input {s : State} {x : Input} {rest : List Input} (h : s.inputs = x :: rest) :
    step s = runInput x (s.take rest) := by
  rw [step, h]

theorem runInput_of_decode {x : Input} {m : Move} (h : decode x = some m) (s : State) : runInput x s = runMove m s := by
  rw [runInput, h]

theorem runInput_of_refused {x : Input} (h : decode x = none) (s : State) :
    runInput x s = .refused (.unusedEventWord x) := by
  rw [runInput, h]

/-- With no input waiting only the last step's answers go. -/
theorem State.take_nil {s : State} (h : s.inputs = []) : s.take [] = { s with out := [] } := by
  rw [State.take, ← h]

/-- The move of the oldest input is the step. -/
theorem step_of_move {s : State} {x : Input} {rest : List Input} {m : Move} (h : s.inputs = x :: rest)
    (hm : decode x = some m) : step s = runMove m (s.take rest) :=
  (step_of_input h).trans (runInput_of_decode hm _)

/-! ### No operation stops (R160) -/

theorem exec_next (i : Instr) (s : State) : ∃ t, exec i s = .next t := by
  cases i <;> exact ⟨_, rfl⟩

theorem execAll_next (is : List Instr) (s : State) : ∃ t, execAll is s = .next t := by
  induction is generalizing s with
  | nil => exact ⟨s, rfl⟩
  | cons i is ih =>
    obtain ⟨t, ht⟩ := exec_next i s
    obtain ⟨u, hu⟩ := ih t
    exact ⟨u, by rw [execAll, ht]; exact hu⟩

/-- A tick: time advances, the operations run, the audio sample comes last. -/
theorem runTick_of_execAll {ops : List Instr} {s u : State} (h : execAll ops (s.beginTick Config.params) = .next u) :
    runTick ops s = .next (u.endTick Config.params) := by
  rw [runTick, h]
  rfl

theorem execAll_single {i : Instr} {s t : State} (h : exec i s = .next t) : execAll [i] s = .next t := by
  rw [execAll, h]
  rfl

theorem execAll_pair {i j : Instr} {s t u : State} (hi : exec i s = .next t) (hj : exec j t = .next u) :
    execAll [i, j] s = .next u := by
  rw [execAll, hi]
  exact execAll_single hj

/-- Settles O44: every arm of the dispatch answers a next state, and there is no fault. -/
theorem everyOperationCompletes : Obligations.EveryOperationCompletes := ⟨exec_next, fun _ f => nomatch f⟩

/-! ### What a step runs -/

/-- Settles O49: the arms of `step` and of `runMove`. -/
theorem stepRunsTheDecodedInput : Obligations.StepRunsTheDecodedInput := by
  intro s x rest i code b
  refine ⟨fun h => ?idle, fun h hd => ?refused, fun h hd => ?uart, fun h hd => ?flash, fun h hd => ?act,
    fun h hd => ?bus⟩
  case idle => rw [step_of_no_input h, State.take_nil h]
  case refused => exact (step_of_input h).trans (runInput_of_refused hd _)
  case uart => exact step_of_move h hd
  case flash =>
    refine ⟨(s.take rest).settle, (s.take rest).settle_eq, fun same => ?_, fun differ => ?_⟩
    · exact (step_of_move h hd).trans (if_pos same)
    · exact (step_of_move h hd).trans (if_neg differ)
  case act => exact step_of_move h hd
  case bus =>
    obtain ⟨t, ht⟩ := exec_next i ((s.take rest).beginTick Config.params)
    exact ⟨t, t.endTick Config.params, ht, rfl, (step_of_move h hd).trans (runTick_of_execAll (execAll_single ht))⟩

/-! ### The request record (R46, R47) -/

/-- The operation of a request record's memory line. -/
def memoryLine (r : BusRequest) : Instr := if r.wr then .memWrite r.addr r.data else .memRead r.addr

/-- The operation of a request record's I/O line. -/
def portLine (r : BusRequest) : Instr :=
  decodePort Config.params.pagingPortNibble r.wr (r.addr.extractLsb' 0 8) (if r.wr then r.data else 0)

section Lines

variable {r : BusRequest}

theorem memoryLine_write (h : r.wr = true) : memoryLine r = .memWrite r.addr r.data := if_pos h

theorem memoryLine_read (h : r.wr = false) : memoryLine r = .memRead r.addr := if_neg (by simp [h])

theorem portLine_write (h : r.wr = true) :
    portLine r = decodePort Config.params.pagingPortNibble true (r.addr.extractLsb' 0 8) r.data := by
  rw [portLine, h, if_pos rfl]

theorem portLine_read (h : r.wr = false) :
    portLine r = decodePort Config.params.pagingPortNibble false (r.addr.extractLsb' 0 8) 0 := by
  rw [portLine, h, if_neg (by decide)]

end Lines

/-- The operations of the lines that are up, memory first. -/
def requestOps (r : BusRequest) : List Instr :=
  (if r.mreq then [memoryLine r] else []) ++ (if r.iorq then [portLine r] else [])

/-- A request record runs one tick with the operations of its lines; an idle tick is a tick with none. -/
theorem runMove_request (r : BusRequest) (s : State) :
    runMove (decodeRequest Config.params.pagingPortNibble r) s = runTick (requestOps r) s := by
  obtain ⟨mreq, iorq, wr, addr, data⟩ := r
  cases mreq <;> cases iorq <;> rfl

/-- One line of a request record: its operation runs if it is up. -/
theorem line_next (up : Bool) (i : Instr) (s : State) :
    ∃ t, (up = true → exec i s = .next t) ∧ (up = false → t = s) := by
  cases up
  · exact ⟨s, by simp, fun _ => rfl⟩
  · obtain ⟨t, ht⟩ := exec_next i s
    exact ⟨t, fun _ => ht, by simp⟩

/-- The lines of a request record, one after the other. -/
theorem execAll_requestOps {r : BusRequest} {s t u : State} (mem : r.mreq = true → exec (memoryLine r) s = .next t)
    (noMem : r.mreq = false → t = s) (io : r.iorq = true → exec (portLine r) t = .next u)
    (noIo : r.iorq = false → u = t) : execAll (requestOps r) s = .next u := by
  unfold requestOps
  cases hm : r.mreq <;> cases hi : r.iorq
  · rw [noIo hi, noMem hm]; rfl
  · exact execAll_single (noMem hm ▸ io hi)
  · exact noIo hi ▸ execAll_single (mem hm)
  · exact execAll_pair (mem hm) (io hi)

/-- Settles O50: the tick of the lines that are up, each line with its own operation. -/
theorem tickServicesTheLinesThatAreUp : Obligations.TickServicesTheLinesThatAreUp := by
  intro s r rest h
  have hstep : step s = runTick (requestOps r) (s.take rest) := (step_of_move h rfl).trans (runMove_request r _)
  obtain ⟨t, mem, noMem⟩ := line_next r.mreq (memoryLine r) ((s.take rest).beginTick Config.params)
  obtain ⟨u, io, noIo⟩ := line_next r.iorq (portLine r) t
  refine ⟨_, t, u, _, rfl, fun up write => ?_, fun up read => ?_, noMem, fun up write => ?_, fun up read => ?_, noIo, rfl,
    hstep.trans (runTick_of_execAll (execAll_requestOps mem noMem io noIo)), fun down down' => ?_⟩
  · exact memoryLine_write write ▸ mem up
  · exact memoryLine_read read ▸ mem up
  · exact portLine_write write ▸ io up
  · exact portLine_read read ▸ io up
  · rw [hstep, requestOps, down, down']
    rfl

/-! ### Refused event words (`30_encoding.md` R93) -/

/-- An event word of a kind from 6 on has no meaning. -/
theorem decodeEventWith_unused (nib : BitVec 4) {w : BitVec 32} (h : 6 ≤ w.toNat / 2 ^ 28) :
    decodeEventWith nib w = none := by
  have kind : (w.extractLsb' 28 4).toNat = w.toNat / 2 ^ 28 := by
    rw [BitVec.extractLsb'_toNat, Nat.shiftRight_eq_div_pow]
    omega
  have used (k : BitVec 4) (hk : k.toNat < 6) : w.extractLsb' 28 4 ≠ k := fun e => by rw [e] at kind; omega
  simp only [decodeEventWith, used 0 (by decide), used 1 (by decide), used 2 (by decide), used 3 (by decide),
    used 4 (by decide), used 5 (by decide), if_false, ite_self]

/-- Settles O51: what does not decode is refused by name. -/
theorem unusedEventKindsAreRefused : Obligations.UnusedEventKindsAreRefused := fun _ w _ h unused =>
  have refused : decode (.event w) = none := decodeEventWith_unused _ unused
  (step_of_input h).trans (runInput_of_refused refused _)

end Sys2Proof.Machine
end

section
/-! PROOF. What the decoder can ask for, and what a step can do to the state: one case per kind of change, from which each
statement about all steps is read off (`60_exceptions.md` R165). -/

namespace Sys2Proof.Machine

/-! ### What the decoder can ask for -/

/-- The operations a memory request is serviced by. -/
inductive IsMemory : Instr → Prop
  | read (a) : IsMemory (.memRead a)
  | write (a d) : IsMemory (.memWrite a d)

/-- The operations an I/O request is serviced by. -/
inductive IsPort : Instr → Prop
  | pageSelect (x r d) : IsPort (.outPageSelect x r d)
  | pagingEnable (x y d) : IsPort (.outPagingEnable x y d)
  | inPaging (low) : IsPort (.inPaging low)
  | other (wr port d) : IsPort (.ioOther wr port d)

/-- The operations of one tick: of a memory request, of an I/O request, or of both in this order (`20_memory.md` R47). -/
inductive Serviced : List Instr → Prop
  | memory {i} : IsMemory i → Serviced [i]
  | port {i} : IsPort i → Serviced [i]
  | both {i j} : IsMemory i → IsPort j → Serviced [i, j]

/-- The operations an input asks for outside a bus request. -/
inductive Outside : Input → Instr → Prop
  | translateRam (x bank lo) : Outside x (.translateRam bank lo)
  | translateVideo (x bank lo) : Outside x (.translateVideo bank lo)
  | translateRom (x cls bank lo) : Outside x (.translateRom cls bank lo)
  | idleTick (x n) : Outside x (.idleTick n)
  | audioCallback (x n) : Outside x (.audioCallback n)
  | audioPop (x) : Outside x .audioPop
  | audioSetVolume (x v) : Outside x (.audioSetVolume v)
  | hostSetPage (j v) : Outside (.setPage j v) (.hostSetPage j v)
  | hostSetPe (b) : Outside (.setPe b) (.hostSetPe b)
  | hostMemWrite (x p a d) : Outside x (.hostMemWrite p a d)
  | hostMemRead (x p a) : Outside x (.hostMemRead p a)
  | hostCapture (x b) : Outside x (.hostCapture b)

/-- What an input can ask for. -/
inductive Asks : Input → Move → Prop
  | bus (x) {ops} : Serviced ops → Asks x (.bus ops)
  | act {x i} : Outside x i → Asks x (.act i)
  | flash (x w) : Asks x (.flash (fwCode w) (decodeFlash w))
  | uart (x b) : Asks x (.uart b)

theorem decodePagingPort_isPort (wr : Bool) (low : BitVec 4) (d : Byte) : IsPort (decodePagingPort wr low d) := by
  unfold decodePagingPort
  split_ifs
  · exact .pageSelect ..
  · exact .pagingEnable ..
  · exact .inPaging ..

theorem decodePort_isPort (nib : BitVec 4) (wr : Bool) (port d : Byte) : IsPort (decodePort nib wr port d) := by
  unfold decodePort
  split
  · exact decodePagingPort_isPort ..
  · exact .other ..

theorem decodePage_outside (x : Input) (p : Byte) (lo : BitVec 14) : Outside x (decodePage p lo) := by
  unfold decodePage
  split_ifs
  · exact .translateRam ..
  · exact .translateVideo ..
  · exact .translateRom ..

theorem decodeEvent_asks {nib : BitVec 4} {w : BitVec 32} {m : Move} (h : decodeEventWith nib w = some m) (x : Input) :
    Asks x m := by
  simp only [decodeEventWith] at h
  split_ifs at h <;> cases h
  · exact .act (.idleTick ..)
  · exact .bus _ (.memory (.read _))
  · exact .bus _ (.memory (.write ..))
  · exact .bus _ (.port (decodePort_isPort ..))
  · exact .bus _ (.port (decodePort_isPort ..))
  · exact .act (.audioCallback ..)

theorem decodeRequest_asks (nib : BitVec 4) (r : BusRequest) (x : Input) : Asks x (decodeRequest nib r) := by
  have mem : IsMemory (if r.wr then .memWrite r.addr r.data else .memRead r.addr) := by
    split
    · exact .write ..
    · exact .read _
  unfold decodeRequest
  cases r.mreq <;> cases r.iorq
  · exact .act (.idleTick ..)
  · exact .bus _ (.port (decodePort_isPort ..))
  · exact .bus _ (.memory mem)
  · exact .bus _ (.both mem (decodePort_isPort ..))

/-- Every input that decodes asks for one of these moves. -/
theorem asks_of_decode {x : Input} {m : Move} (h : decode x = some m) : Asks x m := by
  cases x
  case event => exact decodeEvent_asks h _
  all_goals cases h
  case request r => exact decodeRequest_asks _ r _
  case pagingPort => exact .bus _ (.port (decodePagingPort_isPort ..))
  case flashWord w => exact .flash _ w
  case pageByte p lo => exact .act (decodePage_outside _ p lo)
  case callback => exact .act (.audioCallback ..)
  case pop => exact .act (.audioPop _)
  case uartMcr => exact .uart ..
  case setVolume => exact .act (.audioSetVolume ..)
  case setPage => exact .act (.hostSetPage ..)
  case setPe => exact .act (.hostSetPe _)
  case hostWrite => exact .act (.hostMemWrite ..)
  case hostRead => exact .act (.hostMemRead ..)
  case setCapture => exact .act (.hostCapture ..)

/-! ### What a step can do -/

/-- What at most one access to memory does. -/
inductive Access (s : State) : State → Prop
  | none : Access s s
  | read (a r) : Access s (s.readAt Config.params a r)
  | write (a r d) : Access s (s.writeAt Config.params a r d)

/-- What an update of a register outside the sequencer and the ring buffer does, or an answer. -/
inductive Setting (s : State) : State → Prop
  | answers (out draws) : Setting s { s with out := out, draws := draws }
  | page (j v) : Setting s (s.setPage j v)
  | pe (b) : Setting s (s.setPe b)
  | volume (v) : Setting s (s.setVolume v)
  | capture (b) : Setting s (s.setCapture b)
  | mcr (b) : Setting s (s.setMcr b)

/-- What a move does: idle ticks, one update, pops, or one tick around its requests. -/
inductive Changes (s : State) : State → Prop
  | idle (n) : Changes s (s.idleTicks Config.params n)
  | access {t} : Access s t → Changes s t
  | setting {t} : Setting s t → Changes s t
  | pops (n out) : Changes s { (s.popSamples Config.params n).2 with out := out }
  | tick {u v} : Access (s.beginTick Config.params) u → Setting u v → Changes s (v.endTick Config.params)

/-- A write to a paging port. -/
abbrev PagingWrite (i : Instr) : Prop := (∃ b r d, i = .outPageSelect b r d) ∨ (∃ b y d, i = .outPagingEnable b y d)

theorem Setting.refl (s : State) : Setting s s := .answers s.out s.draws

theorem IsMemory.effect {i : Instr} (h : IsMemory i) {s t : State} (he : exec i s = .next t) : Access s t := by
  cases h <;> cases he
  · exact .read ..
  · exact .write ..

/-- A port changes the paging state only if it is written and is a paging port. -/
theorem IsPort.effect {i : Instr} (h : IsPort i) {s t : State} (he : exec i s = .next t) :
    Setting s t ∧ (SamePaging s t ∨ PagingWrite i) := by
  cases h <;> cases he
  · exact ⟨.page .., .inr (.inl ⟨_, _, _, rfl⟩)⟩
  · exact ⟨.pe _, .inr (.inr ⟨_, _, _, rfl⟩)⟩
  · exact ⟨.answers .., .inl ⟨rfl, rfl⟩⟩
  · exact ⟨.refl _, .inl ⟨rfl, rfl⟩⟩

theorem execAll_single_iff {i : Instr} {s t : State} : execAll [i] s = .next t ↔ exec i s = .next t := by
  obtain ⟨u, hu⟩ := exec_next i s
  rw [execAll_single hu, hu]

/-- The services of a tick: an access, then an update. -/
theorem Serviced.effect {ops : List Instr} (h : Serviced ops) {s t : State} (he : execAll ops s = .next t) :
    ∃ u, Access s u ∧ Setting u t ∧ (SamePaging u t ∨ ∃ i ∈ ops, PagingWrite i) := by
  cases h with
  | memory hi => exact ⟨t, hi.effect (execAll_single_iff.mp he), .refl t, .inl ⟨rfl, rfl⟩⟩
  | @port i hi =>
    obtain ⟨setting, paging⟩ := hi.effect (execAll_single_iff.mp he)
    exact ⟨s, .none, setting, paging.imp_right fun w => ⟨i, by simp, w⟩⟩
  | @both i j hi hj =>
    obtain ⟨u, hu⟩ := exec_next i s
    rw [execAll, hu] at he
    obtain ⟨setting, paging⟩ := hj.effect (execAll_single_iff.mp he)
    exact ⟨u, hi.effect hu, setting, paging.imp_right fun w => ⟨j, by simp, w⟩⟩

theorem snapshot_setting (s : State) (r : Region × Offset) : Setting s (s.snapshot Config.params r) := by
  unfold State.snapshot
  split <;> exact .answers ..

theorem Outside.effect {x : Input} {i : Instr} (h : Outside x i) {s t : State} (he : exec i s = .next t) :
    Changes s t := by
  cases h <;> cases he
  case translateRam => exact .setting (.answers ..)
  case translateVideo => exact .setting (.answers ..)
  case translateRom => exact .setting (.answers ..)
  case idleTick => exact .idle _
  case audioCallback n => exact .pops n _
  case audioPop => exact .pops 1 _
  case audioSetVolume => exact .setting (.volume _)
  case hostSetPage => exact .setting (.page ..)
  case hostSetPe => exact .setting (.pe _)
  case hostMemWrite => exact .access (.write ..)
  case hostMemRead => exact .setting (snapshot_setting ..)
  case hostCapture => exact .setting (.capture _)

/-- A tick runs its operations between the start of the tick and the audio sample. -/
theorem execAll_of_runTick {ops : List Instr} {s t : State} (h : runTick ops s = .next t) :
    ∃ u, execAll ops (s.beginTick Config.params) = .next u ∧ t = u.endTick Config.params := by
  obtain ⟨u, hu⟩ := execAll_next ops (s.beginTick Config.params)
  rw [runTick_of_execAll hu] at h
  cases h
  exact ⟨u, hu, rfl⟩

/-- A flash write word that is formed is the write of its data byte at its offset. -/
theorem runMove_flash {w : BitVec 35} {s t : State} (h : runMove (.flash (fwCode w) (decodeFlash w)) s = .next t) :
    t = s.flashWrite Config.params (fwOff w) (fwData w) := by
  rw [runMove] at h
  split at h
  · rename_i formed
    rw [← flashWordOf_fields w, ← formed, exec_decodeFlash] at h
    cases h
    rfl
  · cases h

/-- What a move that was decoded does. -/
theorem Asks.effect {x : Input} {m : Move} (h : Asks x m) {s t : State} (hm : runMove m s = .next t) : Changes s t := by
  cases h with
  | bus hops =>
    obtain ⟨u, hu, rfl⟩ := execAll_of_runTick hm
    obtain ⟨v, access, setting, -⟩ := hops.effect hu
    exact .tick access setting
  | act hi => exact hi.effect hm
  | flash w => exact runMove_flash hm ▸ .access (.write 0 (.rom, fwOff w) (fwData w))
  | uart b => cases hm; exact .setting (.mcr b)

/-- A step takes its input and makes one of the changes. -/
theorem changes_of_step {s t : State} (h : step s = .next t) : ∃ rest, Changes (s.take rest) t := by
  cases hin : s.inputs with
  | nil =>
    rw [step_of_no_input hin] at h
    cases h
    exact ⟨[], .idle 1⟩
  | cons x rest =>
    cases hd : decode x with
    | none => rw [step_of_input hin, runInput_of_refused hd] at h; cases h
    | some m => exact ⟨rest, (asks_of_decode hd).effect (step_of_move hin hd ▸ h)⟩

end Sys2Proof.Machine
end

section
/-! PROOF. What holds of every step, read off the changes it can make: the invariant of the whole machine, and the safety
statements about time, paging, ROM and the deadline. -/

namespace Sys2Proof.Machine

/-! ### What an access and an update leave unchanged -/

/-- No access to memory changes paging, audio or time. -/
theorem Access.frame {s t : State} (h : Access s t) : SamePaging s t ∧ SameAudio s t ∧ SameTime s t := by
  cases h <;> simp [SamePaging, SameAudio, SameRing, SameAudioRegs, SameTime]

/-- No update changes the memories, the sequencer, or what the invariant says of the sampler. -/
theorem Setting.frame {s t : State} (h : Setting s t) :
    (t.rom = s.rom ∧ t.romErased = s.romErased ∧ t.ram = s.ram) ∧ SameFlashRegs s t ∧ SameRing s t ∧
      t.last = s.last ∧ t.capture = s.capture ∧ t.now = s.now ∧ t.nextSample = s.nextSample := by
  cases h <;> simp [SameFlashRegs, SameRing]

/-! ### The invariant, without the schedule, which is out of phase inside a tick -/

/-- The parts of the invariant that hold inside a tick too. -/
structure PartsOk (s : State) : Prop where
  flash : FlashOk s
  memory : MemoryOk s
  ring : RingOk s
  samples : SamplesOk s

theorem MachineOk.parts {s : State} (h : MachineOk s) : PartsOk s := ⟨h.flash, h.memory, h.ring, h.samples⟩

theorem PartsOk.machine {s : State} (h : PartsOk s) (hs : ScheduleOk s) : MachineOk s :=
  ⟨h.flash, h.memory, h.ring, h.samples, hs⟩

theorem FlashOk.access {s t : State} (h : FlashOk s) (ha : Access s t) : FlashOk t := by
  cases ha with
  | none => exact h
  | read a r =>
    unfold State.readAt
    split
    · exact h.congr ⟨rfl, rfl, rfl, rfl⟩
    · exact h.congr ⟨s.videoRead_seq _ a r.2, s.videoRead_active _ a r.2, s.videoRead_deadline _ a r.2,
        s.videoRead_tmask _ a r.2⟩
    · exact h.flashRead _ _
  | write a r d =>
    unfold State.writeAt
    split
    · exact h.congr ⟨rfl, rfl, rfl, rfl⟩
    · exact h.congr ⟨s.videoWrite_seq _ a r.2 d, s.videoWrite_active _ a r.2 d, s.videoWrite_deadline _ a r.2 d,
        s.videoWrite_tmask _ a r.2 d⟩
    · exact h.flashWrite _ _ _

theorem MemoryOk.access {s t : State} (h : MemoryOk s) (ha : Access s t) : MemoryOk t := by
  cases ha with
  | none => exact h
  | read a r => exact h.congr (s.readAt_rom _ a r) (s.readAt_romErased _ a r) (s.readAt_ram _ a r)
  | write a r d =>
    unfold State.writeAt
    split
    · exact h.writeRam _ _
    · exact h.congr (s.videoWrite_rom _ a r.2 d) (s.videoWrite_romErased _ a r.2 d) (s.videoWrite_ram _ a r.2 d)
    · exact h.flashWrite _ _

theorem PartsOk.access {s t : State} (h : PartsOk s) (ha : Access s t) : PartsOk t := by
  obtain ⟨-, ⟨ring, hlast, -, -, -, hcapture⟩, -⟩ := ha.frame
  exact ⟨h.flash.access ha, h.memory.access ha, h.ring.congr ring, h.samples.congr ring.1 hlast hcapture⟩

theorem PartsOk.setting {s t : State} (h : PartsOk s) (hs : Setting s t) : PartsOk t := by
  obtain ⟨⟨hrom, herased, hram⟩, hflash, ring, hlast, hcapture, -, -⟩ := hs.frame
  exact ⟨h.flash.congr hflash, h.memory.congr hrom herased hram, h.ring.congr ring,
    h.samples.congr ring.1 hlast hcapture⟩

theorem PartsOk.beginTick {s : State} (h : PartsOk s) : PartsOk (s.beginTick Config.params) :=
  ⟨h.flash.congr ⟨rfl, rfl, rfl, rfl⟩, h.memory.congr rfl rfl rfl, h.ring.congr ⟨rfl, rfl, rfl, rfl⟩,
    h.samples.congr rfl rfl rfl⟩

theorem PartsOk.endTick {s : State} (h : PartsOk s) : PartsOk (s.endTick Config.params) :=
  ⟨h.flash.congr (by simp [SameFlashRegs]), h.memory.congr (s.endTick_rom _) (s.endTick_romErased _) (s.endTick_ram _),
    h.ring.sampleAudio, h.samples.sampleAudio⟩

/-! ### Every change keeps the invariant -/

theorem MachineOk.access {s t : State} (h : MachineOk s) (ha : Access s t) : MachineOk t := by
  obtain ⟨-, ⟨-, -, hnext, -⟩, hnow, -⟩ := ha.frame
  exact (h.parts.access ha).machine (by unfold ScheduleOk; rw [hnext, hnow]; exact h.schedule)

theorem MachineOk.setting {s t : State} (h : MachineOk s) (hs : Setting s t) : MachineOk t := by
  obtain ⟨-, -, -, -, -, hnow, hnext⟩ := hs.frame
  exact (h.parts.setting hs).machine (by unfold ScheduleOk; rw [hnext, hnow]; exact h.schedule)

theorem MachineOk.popSamples {s : State} (h : MachineOk s) (n : Nat) : MachineOk (s.popSamples Config.params n).2 where
  flash := h.flash.congr (by simp [SameFlashRegs])
  memory := h.memory.congr (s.popSamples_rom _ n) (s.popSamples_romErased _ n) (s.popSamples_ram _ n)
  ring := RingOk.popSamples n h.ring
  samples := h.samples.popSamples n _
  schedule := by simpa [ScheduleOk] using h.schedule

/-- A tick: inside it the schedule may be out of phase, and the audio sample brings it back. -/
theorem MachineOk.tick {s u v : State} (h : MachineOk s) (ha : Access (s.beginTick Config.params) u)
    (hs : Setting u v) : MachineOk (v.endTick Config.params) := by
  obtain ⟨-, ⟨-, -, anext, -⟩, anow, -⟩ := ha.frame
  obtain ⟨-, -, -, -, -, snow, snext⟩ := hs.frame
  have parts : PartsOk v := (h.parts.beginTick.access ha).setting hs
  exact parts.endTick.machine (State.endTick_schedule h.schedule (snow.trans anow) (snext.trans anext))

theorem MachineOk.idleTicks {s : State} (h : MachineOk s) (n : Nat) : MachineOk (s.idleTicks Config.params n) := by
  induction n generalizing s with
  | zero => exact h
  | succ n ih => exact ih (h.tick .none (.refl _))

theorem MachineOk.changes {s t : State} (h : MachineOk s) (hc : Changes s t) : MachineOk t := by
  cases hc with
  | idle n => exact h.idleTicks n
  | access ha => exact h.access ha
  | setting hs => exact h.setting hs
  | pops n out => exact (h.popSamples n).setting (.answers out _)
  | tick ha hs => exact h.tick ha hs

theorem MachineOk.take {s : State} (h : MachineOk s) (rest : List Input) : MachineOk (s.take rest) :=
  ⟨h.flash.congr ⟨rfl, rfl, rfl, rfl⟩, h.memory.congr rfl rfl rfl, h.ring.congr ⟨rfl, rfl, rfl, rfl⟩,
    h.samples.congr rfl rfl rfl, h.schedule⟩

/-- Settles O48: taking the input keeps the invariant, and so does every change. -/
theorem everyStepKeepsTheInvariant : Obligations.EveryStepKeepsTheInvariant := by
  intro s t h hstep
  obtain ⟨rest, hc⟩ := changes_of_step hstep
  exact (h.take rest).changes hc

/-! ### Reset -/

/-- Settles O46: the reset state is written out in the model, and a ROM byte that is not listed reads as the image. -/
theorem resetLeavesTheSpecsValues : Obligations.ResetLeavesTheSpecsValues :=
  ⟨rfl, rfl, rfl, rfl, rfl, rfl, rfl, rfl, rfl, rfl, rfl, rfl, rfl, fun _ _ => rfl⟩

/-- Settles O47: the parts of the invariant, each on the reset state's own fields. -/
theorem resetMeetsTheInvariant : Obligations.ResetMeetsTheInvariant where
  flash := ⟨by decide, by decide, .inl rfl⟩
  memory := ⟨rfl, rfl, fun _ h => absurd h List.not_mem_nil, fun _ h => absurd h List.not_mem_nil⟩
  ring := ⟨by simp [State.reset, State.resetWith], Nat.zero_le _, audioCap_pos, (Nat.zero_mod _).symm⟩
  samples := by
    refine ⟨fun x hx => ?_, toSample_inRange _, fun _ h => absurd h List.not_mem_nil⟩
    obtain ⟨i, -, rfl⟩ := List.mem_map.mp hx
    exact toSample_inRange _
  schedule := by simp [ScheduleOk, State.reset, State.resetWith]

/-! ### Time (`10_state.md` R13) -/

theorem Changes.now_le {s t : State} (h : Changes s t) : s.now ≤ t.now := by
  cases h with
  | idle n => rw [s.idleTicks_now]; exact Nat.le_add_right _ _
  | access ha =>
    obtain ⟨-, -, hnow, -⟩ := ha.frame
    exact hnow.ge
  | setting hs =>
    obtain ⟨-, -, -, -, -, hnow, -⟩ := hs.frame
    exact hnow.ge
  | pops n out => exact (s.popSamples_now _ n).ge
  | @tick u v ha hs =>
    obtain ⟨-, -, hnow, -⟩ := ha.frame
    obtain ⟨-, -, -, -, -, hnow', -⟩ := hs.frame
    rw [v.endTick_now, hnow', hnow]
    exact Nat.le_add_right _ _

/-- Settles O52: no change makes time go back, and taking the input leaves it. -/
theorem timeNeverDecreases : Obligations.TimeNeverDecreases := by
  intro s t hstep
  obtain ⟨rest, hc⟩ := changes_of_step hstep
  exact hc.now_le

/-! ### ROM (`41_flash.md` R127) -/

/-- A ROM write that changes a byte is a program or an erase, and starts an operation. -/
theorem State.flashStep_rom_changes {s : State} {o : Offset} {d : Byte}
    (h : ¬ SameRom s (s.flashStep Config.params o d)) :
    (s.seq = 0xA0 ∨ s.seq = 0x82) ∧ (s.flashStep Config.params o d).active = true ∧
      (s.flashStep Config.params o d).seq = 0x03 := by
  by_cases program : s.seq = 0xA0
  · rw [State.flashStep_program _ _ _ _ program]
    exact ⟨.inl program, rfl, rfl⟩
  by_cases erase : s.seq = 0x82
  · rw [State.flashStep_erase2 _ _ _ _ erase] at h ⊢
    split_ifs at h ⊢
    · exact ⟨.inr erase, rfl, rfl⟩
    · exact ⟨.inr erase, rfl, rfl⟩
    · exact absurd (fun _ => rfl) h
  · exact absurd (s.flashStep_keeps_rom _ o d program erase).1 h

/-- The completion check leaves no code but 0 behind, so a code that is not 0 is the one before it. -/
theorem State.seq_of_settle_seq {s : State} {c : Byte} (hc : c ≠ 0x00) (h : s.settle.seq = c) : s.seq = c := by
  rw [State.settle_eq] at h
  split at h
  · exact absurd h.symm hc
  · exact h

theorem State.flashWrite_rom_changes {s : State} {o : Offset} {d : Byte}
    (h : ¬ SameRom s (s.flashWrite Config.params o d)) :
    (s.seq = 0xA0 ∨ s.seq = 0x82) ∧ (s.flashWrite Config.params o d).active = true ∧
      (s.flashWrite Config.params o d).seq = 0x03 := by
  have changed : ¬ SameRom s.settle (s.settle.flashStep Config.params o d) := fun same =>
    h fun k => (same k).trans (s.settle_romByte _ k)
  obtain ⟨code, started⟩ := State.flashStep_rom_changes changed
  exact ⟨code.imp (State.seq_of_settle_seq (by decide)) (State.seq_of_settle_seq (by decide)), started⟩

theorem Access.rom_changes {s t : State} (ha : Access s t) (h : ¬ SameRom s t) :
    (s.seq = 0xA0 ∨ s.seq = 0x82) ∧ t.active = true ∧ t.seq = 0x03 := by
  cases ha with
  | none => exact absurd (fun _ => rfl) h
  | read a r => exact absurd (s.readAt_romByte _ a r) h
  | write a r d =>
    obtain ⟨region, o⟩ := r
    cases region with
    | ram => exact absurd (fun _ => rfl) h
    | video => exact absurd (s.videoWrite_romByte _ a o d) h
    | rom => exact State.flashWrite_rom_changes h

theorem Setting.sameRom {s t : State} (h : Setting s t) : SameRom s t := by
  obtain ⟨⟨hrom, herased, -⟩, -⟩ := h.frame
  exact State.romByte_congr hrom herased

theorem Changes.rom_changes {s t : State} (hc : Changes s t) (h : ¬ SameRom s t) :
    (s.seq = 0xA0 ∨ s.seq = 0x82) ∧ t.active = true ∧ t.seq = 0x03 := by
  cases hc with
  | idle n => exact absurd (s.idleTicks_romByte _ n) h
  | access ha => exact ha.rom_changes h
  | setting hs => exact absurd hs.sameRom h
  | pops n out => exact absurd (s.popSamples_romByte _ n) h
  | @tick u v ha hs =>
    obtain ⟨-, ⟨hseq, hactive, -⟩, -⟩ := hs.frame
    have changed : ¬ SameRom (s.beginTick Config.params) u := fun same =>
      h fun k => (v.endTick_romByte _ k).trans ((hs.sameRom k).trans (same k))
    obtain ⟨code, active, seq⟩ := ha.rom_changes changed
    exact ⟨code, by rw [v.endTick_active, hactive, active], by rw [v.endTick_seq, hseq, seq]⟩

/-- Settles O54: only an access to memory changes ROM, and a tick has at most one. -/
theorem onlyArmedCommandsChangeRom : Obligations.OnlyArmedCommandsChangeRom := by
  intro s t hstep h
  obtain ⟨rest, hc⟩ := changes_of_step hstep
  exact hc.rom_changes h

/-! ### The deadline (`41_flash.md` R128) -/

/-- During an operation a ROM write finds the sequencer in state 3, or in state 0 if it has completed the operation. -/
theorem FlashOk.flashWrite_deadline {s : State} (ok : FlashOk s) (active : s.active = true) (o : Offset) (d : Byte) :
    (s.flashWrite Config.params o d).deadline = s.deadline := by
  obtain ⟨notProgram, notErase⟩ : s.settle.seq ≠ 0xA0 ∧ s.settle.seq ≠ 0x82 := by
    rw [State.settle_eq]
    split
    · exact ⟨by simp, by simp⟩
    · rw [ok.busy.mp active]
      decide
  obtain ⟨-, kept⟩ := s.settle.flashStep_keeps_rom Config.params o d notProgram notErase
  exact kept.trans s.settle_deadline

theorem Access.deadline {s t : State} (ha : Access s t) (ok : FlashOk s) (active : s.active = true) :
    t.deadline = s.deadline := by
  cases ha with
  | none => rfl
  | read a r => exact s.readAt_deadline _ a r
  | write a r d =>
    obtain ⟨region, o⟩ := r
    cases region with
    | ram => rfl
    | video => exact s.videoWrite_deadline _ a o d
    | rom => exact ok.flashWrite_deadline active o d

theorem Changes.deadline {s t : State} (hc : Changes s t) (ok : FlashOk s) (active : s.active = true) :
    t.deadline = s.deadline := by
  cases hc with
  | idle n => exact s.idleTicks_deadline _ n
  | access ha => exact ha.deadline ok active
  | setting hs =>
    obtain ⟨-, ⟨-, -, hdeadline, -⟩, -⟩ := hs.frame
    exact hdeadline
  | pops n out => exact s.popSamples_deadline _ n
  | @tick u v ha hs =>
    obtain ⟨-, ⟨-, -, hdeadline, -⟩, -⟩ := hs.frame
    rw [v.endTick_deadline, hdeadline]
    exact ha.deadline (ok.congr ⟨rfl, rfl, rfl, rfl⟩) active

/-- Settles O55: no access during an operation starts another one. -/
theorem deadlineStaysDuringAnOperation : Obligations.DeadlineStaysDuringAnOperation := by
  intro s t ok active hstep _
  obtain ⟨rest, hc⟩ := changes_of_step hstep
  exact hc.deadline (ok.congr ⟨rfl, rfl, rfl, rfl⟩) active

/-! ### Paging (`10_state.md` R17) -/

/-- The inputs that may change the paging state. -/
abbrev EditsPaging (x : Input) (m : Move) : Prop :=
  (∃ ops i, m = .bus ops ∧ i ∈ ops ∧ PagingWrite i) ∨ (∃ j v, x = .setPage j v) ∨ (∃ b, x = .setPe b)

theorem Outside.samePaging {x : Input} {i : Instr} (h : Outside x i) {s t : State} (he : exec i s = .next t) :
    SamePaging s t ∨ (∃ j v, x = .setPage j v) ∨ (∃ b, x = .setPe b) := by
  cases h <;> cases he
  case hostSetPage j v => exact .inr (.inl ⟨j, v, rfl⟩)
  case hostSetPe b => exact .inr (.inr ⟨b, rfl⟩)
  all_goals exact .inl (by simp [SamePaging, State.answerTranslation])

theorem Asks.samePaging {x : Input} {m : Move} (h : Asks x m) {s t : State} (hm : runMove m s = .next t) :
    SamePaging s t ∨ EditsPaging x m := by
  cases h with
  | @bus ops hops =>
    obtain ⟨u, hu, rfl⟩ := execAll_of_runTick hm
    obtain ⟨v, access, -, paging⟩ := hops.effect hu
    obtain ⟨⟨hpe, hpr⟩, -⟩ := access.frame
    rcases paging with ⟨hpe', hpr'⟩ | ⟨i, hi, write⟩
    · exact .inl ⟨by rw [u.endTick_pe, hpe', hpe]; rfl, by rw [u.endTick_pr, hpr', hpr]; rfl⟩
    · exact .inr (.inl ⟨ops, i, rfl, hi, write⟩)
  | act hi => exact (hi.samePaging hm).imp_right .inr
  | flash w => exact .inl (runMove_flash hm ▸ ⟨s.flashWrite_pe .., s.flashWrite_pr ..⟩)
  | uart b => cases hm; exact .inl ⟨rfl, rfl⟩

/-- Settles O53: with no input the paging state stays, and every other step asks for a decoded move. -/
theorem onlyPagingWritesChangePaging : Obligations.OnlyPagingWritesChangePaging := by
  intro s t hstep changed
  cases hin : s.inputs with
  | nil =>
    rw [step_of_no_input hin] at hstep
    cases hstep
    exact absurd (by simp [SamePaging]) changed
  | cons x rest =>
    cases hd : decode x with
    | none => rw [step_of_input hin, runInput_of_refused hd] at hstep; cases hstep
    | some m =>
      rw [step_of_move hin hd] at hstep
      rcases (asks_of_decode hd).samePaging hstep with same | ⟨ops, i, rfl, hi, write⟩ | edit
      · exact absurd same changed
      · exact ⟨x, rest, rfl, .inl ⟨ops, i, hd, hi, write⟩⟩
      · exact ⟨x, rest, rfl, .inr edit⟩

end Sys2Proof.Machine
end
